-- ==== Sys2Proof/Word.lean ====
section
/-! DEFINITION. The words and the numbered things of the TH12: bytes, and the numbers of domains, rails,
levels, ports, agents and handles (spec/00_scope.md, Table 0-4), with the lists that name all of each. -/

namespace Sys2Proof

/-- One byte of a frame, a voltage code, a clock code, a tag or a generation. -/
abbrev Byte := BitVec 8

/-- D0 to D11. -/
abbrev DomainId := Fin 12

/-- V0 to V3. -/
abbrev RailId := Fin 4

/-- L0 to L15; a higher index means higher performance. -/
abbrev Level := Fin 16

/-- A request port by its port index: 0 to 7 are A0 to A7, 8 is S. -/
abbrev PortId := Fin 9

/-- An agent port, A0 to A7. -/
abbrev AgentId := Fin 8

/-- The handle of a demand record, 0 to 63. -/
abbrev Handle := Fin 64

/-- The supervisor port S. -/
def supervisor : PortId := 8

/-- The port index of an agent port. -/
def AgentId.port (x : AgentId) : PortId := x.castSucc

def allDomains : List DomainId := List.finRange 12
def allRails : List RailId := List.finRange 4
def allLevels : List Level := List.finRange 16
def allPorts : List PortId := List.finRange 9
def allHandles : List Handle := List.finRange 64

/-- A fixed number of like things with one function applied to each of them, by recursion on the list of them. -/
def mapAll {α β : Type} {n : Nat} (f : α → β) (v : Vector α n) : Vector β n :=
  ⟨⟨v.toList.map f⟩, by simp⟩

end Sys2Proof
end

