-- ==== Sys2Proof/Config.lean ====
section
/-! DEFINITION. The quantities the manual fixes for every TH12 (spec/00_scope.md, Table 0-4; R89, R91, R95),
in µs where they are times, and the free values: the orders that the manual leaves open. -/

namespace Sys2Proof.Config

/-- The reply timer of the regulator link, 100 µs from the end of the command frame (R91, R162). -/
def replyTimeout : Nat := 100

/-- The reset hold of the regulator link, 100 µs from the release of RESET_N (R89). -/
def resetHold : Nat := 100

/-- The settle margin of a raise, 25 µs (R95). -/
def settleMargin : Nat := 25

/-- The unit of the lock timeout and of the gate settle time, 10 µs (R54). -/
def clockUnit : Nat := 10

/-- The unit of the consent timeout, 100 µs (R106). -/
def consentUnit : Nat := 100

/-- The unit of the quiet window, 1 ms (R78). -/
def quietUnit : Nat := 1000

/-- The most notices a pending set holds (R140). -/
def boxCapacity : Nat := 16

/-- The largest quota (R4, R8). -/
def quotaLimit : Nat := 64

/-- The number on CKDOM that marks a stop strobe and names no domain (R110). -/
def stopMark : BitVec 4 := 12

/-- FREE VALUE (notes/assumptions/6.md). Where one event reaches several domain controllers, the order in which
they take it: the manual gives none (R31, R41, R133). The argument is State.choices, so that each such event
has an order of its own; `arrange` makes a permutation of the domains concerned out of any list. -/
opaque domainOrder : Nat → List DomainId

/-- FREE VALUE (notes/assumptions/7.md). Whether, in an accepted MAP, the old rail joins the waiting set ahead of
the new rail: the manual gives no order (R57, R90). The argument is State.choices. -/
opaque oldRailFirst : Nat → Bool

end Sys2Proof.Config
end

