-- ==== Sys2Proof/Syntax.lean ====
section
/-! DEFINITION. The commands of the TH12: one constructor of `Instr` for each row of spec/opcode_table.json.
A row is a step of the part, whole and indivisible (spec/95_what_each_step_holds.md): an operation on a pin or a
port, a request as its owning block takes it, the running out of a timer, or a step the part makes by itself. -/

namespace Sys2Proof

/-- Eight bytes of a request frame or of a response frame (Chapter 10). -/
structure Frame where
  b0 : Byte
  b1 : Byte
  b2 : Byte
  b3 : Byte
  b4 : Byte
  b5 : Byte
  b6 : Byte
  b7 : Byte
  deriving DecidableEq, Repr

/-- FLOOR: run at the level or higher. CAP: run at the level or lower (R1). -/
inductive DemandClass where
  | floor
  | cap
  deriving DecidableEq, Repr

/-- The throttle inputs THR0 and THR1 (R31). -/
inductive ThrottleLine where
  | thr0
  | thr1
  deriving DecidableEq, Repr

/-- The two answer lines of the consent channel (R108, R109). -/
inductive AnswerLine where
  | cgrant
  | cdeny
  deriving DecidableEq, Repr

/-- When the first bit of a transaction came, seen from its release (R149; notes/assumptions/14.md). -/
inductive FirstBit where
  /-- Nothing the shifted-out frame is made of has changed since the first bit. -/
  | now
  /-- The port's answer and the edges of PRESENT have changed the port `back` times since, and its ALERT then stood at
  `alert`. Where PRESENT has fallen since, `bytes` bytes had begun to shift out at the first such fall (R157). -/
  | earlier (back : Nat) (alert : Bool) (bytes : Nat)
  /-- The transaction was in progress at a pin reset, or made while RESET_N was low (R153). -/
  | reset
  deriving DecidableEq, Repr

/-- The set-or-clear and level arguments of FORCE: the level is read with set only (R35, R154, R161). -/
inductive ForceArg where
  | clear
  | set (level : Level)
  | other (argument : Byte)
  deriving DecidableEq, Repr

/-- The form and number arguments of EVICT and CLEAR-FAULT: with a form above 1 no number is read (R154). -/
inductive FormArg (α : Type) where
  | number (a : α)
  | otherForm (form : Byte)
  deriving DecidableEq, Repr

/-- A notice with its subject and its further fields (R139, Table 8-1). OVERFLOW is no notice of a pending set:
TAKE-NOTICE makes it (R144). -/
inductive Notice where
  | inForce (h : Handle) (tag generation : Byte) (level : Level)
  | clamped (h : Handle) (tag generation : Byte) (level : Level)
  | expired (h : Handle) (tag : Byte)
  | evicted (h : Handle) (tag : Byte)
  | domainHeld (d : DomainId)
  | railFault (v : RailId)
  | railShutdown (v : RailId)
  | clockFault (d : DomainId)
  | portLost (x : AgentId)
  | consentSilent (d : DomainId)
  deriving DecidableEq, Repr

/-- The levels of the input pins that the part reads, as they stand at the release of RESET_N (R98, R108, R148, R158). -/
structure InputLevels where
  present : Vector Bool 8
  thr0 : Bool
  thr1 : Bool
  cgrant : Bool
  cdeny : Bool
  pg : Vector Bool 4
  deriving DecidableEq, Repr

/-- The commands. A request carries the port it was taken from, where any port may send it, and its arguments as
the range check of R154 leaves them: a number that check 3 bounds has its range as its type, an argument that the
owning block checks is a byte. The docstrings name the row and its rule. -/
inductive Instr where
  /-- PIN_RESET (R81): `inputs` are the pin levels at the release of RESET_N. -/
  | pinReset (inputs : InputLevels)
  /-- RESET_HOLD_END (R89). -/
  | resetHoldEnd
  /-- TRANSACTION (R150): the release of a well-formed transaction that shifted `f` in. -/
  | transaction (p : PortId) (start : FirstBit) (f : Frame)
  /-- MALFORMED_TRANSACTION (R152, R153): `bits` shifted, or another select asserted meanwhile: `overlap` then lists the
  SCK cycles, counted from 0, in which it was. -/
  | malformedTransaction (p : PortId) (start : FirstBit) (bits : Nat) (overlap : Option (List Nat))
  /-- PRESENT_FALL (R157). -/
  | presentFall (x : AgentId)
  /-- PORT_LOSS (R24): the demand table takes the loss of Ax. -/
  | portLoss (x : AgentId)
  /-- PRESENT_RISE (R158). -/
  | presentRise (x : AgentId)
  /-- FILE (R10). -/
  | file (p : PortId) (d : DomainId) (cls : DemandClass) (level : Level) (lease : BitVec 16) (tag : Byte)
  /-- RENEW (R14). -/
  | renew (p : PortId) (h : Handle) (lease : BitVec 16)
  /-- RELEASE (R15). -/
  | release (p : PortId) (h : Handle)
  /-- READ-DEMAND (R18). -/
  | readDemand (p : PortId) (h : Handle)
  /-- NEXT-DEMAND (R19). -/
  | nextDemand (p : PortId) (cursor : Handle)
  /-- READ-DOMAIN (R80). -/
  | readDomain (p : PortId) (d : DomainId) (page : Byte)
  /-- READ-RAIL (R104). -/
  | readRail (p : PortId) (v : RailId) (page : Byte)
  /-- READ-POINT (R60). -/
  | readPoint (p : PortId) (d : DomainId) (page : Byte)
  /-- TAKE-NOTICE (R144). -/
  | takeNotice (p : PortId)
  /-- SET-POINT (R48). -/
  | setPoint (d : DomainId) (level : Level) (valid clock volt : Byte)
  /-- SET-LEVELS (R51). -/
  | setLevels (d : DomainId) (rest safe floorLimit ceilingLimit : Level)
  /-- SET-THROTTLE (R53). -/
  | setThrottle (d : DomainId) (line : Byte) (level : Level)
  /-- SET-TIMES (R54). -/
  | setTimes (d : DomainId) (lock gate : Byte)
  /-- MAP (R55). -/
  | map (d : DomainId) (v : RailId)
  /-- SET-PARK (R122). -/
  | setPark (d : DomainId) (enable window policy : Byte)
  /-- SET-CONSENT (R123). -/
  | setConsent (count : Byte)
  /-- SET-RAIL (R101). -/
  | setRail (v : RailId) (min max fallback retention stepTime : Byte)
  /-- SET-QUOTA (R8). -/
  | setQuota (p : PortId) (quota : Byte)
  /-- OPEN (R6). -/
  | openPhase
  /-- CLOSE (R7). -/
  | closePhase
  /-- FORCE (R35). -/
  | force (d : DomainId) (arg : ForceArg)
  /-- EVICT in handle form (R21), and an EVICT with a form argument above 1 (R154). -/
  | evictHandleForm (arg : FormArg Handle)
  /-- EVICT in port form (R22). -/
  | evictPortForm (p : PortId)
  /-- CLEAR-FAULT in rail form (R133), and a CLEAR-FAULT with a form argument above 1 (R132, Table 9-3). -/
  | clearFaultRailForm (arg : FormArg RailId)
  /-- CLEAR-FAULT in domain form (R135). -/
  | clearFaultDomainForm (d : DomainId)
  /-- RESTART-TABLES (R23). -/
  | restartTables
  /-- READ-PORT (R20). -/
  | readPort (p : PortId)
  /-- LEASE_EXPIRY (R17). -/
  | leaseExpiry (h : Handle)
  /-- RECORD_REPORT (R33): Dd takes the oldest report in flight to it. -/
  | recordReport (d : DomainId)
  /-- THROTTLE_EDGE (R31): `rising` is the direction of the edge. -/
  | throttleEdge (line : ThrottleLine) (rising : Bool)
  /-- STROBE_DRIVEN (R70): the bus carries Dd's pending strobe. -/
  | strobeDriven (d : DomainId)
  /-- LOCK_RISE (R71). -/
  | lockRise (d : DomainId)
  /-- LOCK_TIMEOUT (R73). -/
  | lockTimeout (d : DomainId)
  /-- FREEZING_LOCK_TIMEOUT (R127). -/
  | freezingLockTimeout (d : DomainId)
  /-- QUIET_TIMER_EXPIRY (R107). -/
  | quietTimerExpiry (d : DomainId)
  /-- CGRANT_RISE (R110). -/
  | cgrantRise
  /-- CDENY_RISE (R111). -/
  | cdenyRise
  /-- CONSENT_LINE_FALL (R108). -/
  | consentLineFall (line : AnswerLine)
  /-- CONSENT_TIMEOUT (R112). -/
  | consentTimeout
  /-- GATE_SETTLE_EXPIRY (R115): of a domain in PARKING. -/
  | gateSettleExpiry (d : DomainId)
  /-- WAKE_GATE_SETTLE_EXPIRY (R119): of a domain in the GATE stage of a wake. -/
  | wakeGateSettleExpiry (d : DomainId)
  /-- ASSURED_CODE_CHANGE (R83): Dd takes a change of its rail's assured code. -/
  | assuredCodeChange (d : DomainId)
  /-- LINK_SEND (R91). -/
  | linkSend
  /-- REGULATOR_REPLY (R92): `reply` is the byte on RLDAT, `pg` the level of the PG input of the rail on the link. -/
  | regulatorReply (reply : Byte) (pg : Bool)
  /-- REPLY_TIMEOUT (R93). -/
  | replyTimeout
  /-- SETTLE_DEADLINE (R96): `pg` is the level of the rail's PG input. -/
  | settleDeadline (v : RailId) (pg : Bool)
  /-- PG_FALL (R98). -/
  | pgFall (v : RailId)
  /-- NOTICE_ARRIVAL (R141): the notice unit takes notice `n` raised to port `p`. -/
  | noticeArrival (p : PortId) (n : Notice)
  /-- MILLISECOND_BOUNDARY (R13). -/
  | millisecondBoundary
  deriving DecidableEq, Repr

/-- The port a request was taken from, for the rows that are requests; a supervisor-only request is S's (R155). -/
def Instr.requester : Instr → Option PortId
  | .file p _ _ _ _ _ => some p
  | .renew p _ _ => some p
  | .release p _ => some p
  | .readDemand p _ => some p
  | .nextDemand p _ => some p
  | .readDomain p _ _ => some p
  | .readRail p _ _ => some p
  | .readPoint p _ _ => some p
  | .takeNotice p => some p
  | .setPoint _ _ _ _ _ => some supervisor
  | .setLevels _ _ _ _ _ => some supervisor
  | .setThrottle _ _ _ => some supervisor
  | .setTimes _ _ _ => some supervisor
  | .map _ _ => some supervisor
  | .setPark _ _ _ _ => some supervisor
  | .setConsent _ => some supervisor
  | .setRail _ _ _ _ _ _ => some supervisor
  | .setQuota _ _ => some supervisor
  | .openPhase => some supervisor
  | .closePhase => some supervisor
  | .force _ _ => some supervisor
  | .evictHandleForm _ => some supervisor
  | .evictPortForm _ => some supervisor
  | .clearFaultRailForm _ => some supervisor
  | .clearFaultDomainForm _ => some supervisor
  | .restartTables => some supervisor
  | .readPort _ => some supervisor
  | .pinReset _ => none
  | .resetHoldEnd => none
  | .transaction _ _ _ => none
  | .malformedTransaction _ _ _ _ => none
  | .presentFall _ => none
  | .portLoss _ => none
  | .presentRise _ => none
  | .leaseExpiry _ => none
  | .recordReport _ => none
  | .throttleEdge _ _ => none
  | .strobeDriven _ => none
  | .lockRise _ => none
  | .lockTimeout _ => none
  | .freezingLockTimeout _ => none
  | .quietTimerExpiry _ => none
  | .cgrantRise => none
  | .cdenyRise => none
  | .consentLineFall _ => none
  | .consentTimeout => none
  | .gateSettleExpiry _ => none
  | .wakeGateSettleExpiry _ => none
  | .assuredCodeChange _ => none
  | .linkSend => none
  | .regulatorReply _ _ => none
  | .replyTimeout => none
  | .settleDeadline _ _ => none
  | .pgFall _ => none
  | .noticeArrival _ _ => none
  | .millisecondBoundary => none

end Sys2Proof
end

