-- ==== Sys2Proof/Machine/State.lean ====
section
/-! DEFINITION. The state of the TH12, block by block (spec/00_scope.md, Table 0-1), with the requests, reports and
notices on their way between blocks, the commands waiting to be taken, and the state after pin reset. -/

namespace Sys2Proof.Machine

/-! ### The demand table (Chapter 1) -/

/-- The phase of the part (R5). -/
inductive Phase where
  | setup
  | run
  deriving DecidableEq, Repr

/-- How a demand stands (R1, R37). -/
inductive Status where
  | pending
  | inForce
  | clamped
  | held
  deriving DecidableEq, Repr

/-- What an evaluation finds of a record (R37). -/
inductive Verdict where
  | inForce
  | clamped
  deriving DecidableEq, Repr

/-- The lease timer of a record: lease remaining in ms, and whether the boundary at which it falls from 1 has come,
so that its expiry is due (R13, R17). -/
structure Lease where
  remaining : Nat
  due : Bool
  deriving DecidableEq, Repr

/-- A live demand record (R1, Table 1-1). Its handle is its place in the table. -/
structure Record where
  owner : PortId
  domain : DomainId
  cls : DemandClass
  level : Level
  tag : Byte
  lease : Option Lease
  generation : Byte
  acknowledged : Byte
  lastSettled : Option Verdict
  status : Status
  deriving DecidableEq, Repr

/-- What a report to a domain controller says of a record (R9). -/
inductive ReportKind where
  | created
  | replaced
  | retired
  deriving DecidableEq, Repr

/-- The reports of one request or event to one domain controller (R9). -/
structure Report where
  domain : DomainId
  items : List (Handle × ReportKind)
  deriving DecidableEq, Repr

/-! ### Operating point tables (Chapter 3) -/

/-- An operating point entry (R44). -/
structure Point where
  valid : Bool
  clock : Byte
  volt : Byte
  deriving DecidableEq, Repr

/-- What a domain does when its consent request is not answered (R112). -/
inductive Policy where
  | stay
  | park
  deriving DecidableEq, Repr

/-- The domain configuration record (R46, Table 3-2). Times are held as their counts. -/
structure Configuration where
  rest : Level
  safe : Level
  floorLimit : Level
  ceilingLimit : Level
  throttleLine : Option ThrottleLine
  throttleLevel : Level
  rail : RailId
  lockCount : Byte
  gateCount : Byte
  park : Bool
  window : Byte
  policy : Policy
  deriving DecidableEq, Repr

/-- A domain's operating point table and configuration record. -/
structure Setup where
  points : Vector Point 16
  config : Configuration
  deriving DecidableEq, Repr

/-! ### Domain controllers (Chapters 2, 4) -/

/-- The governing source (R26, Table 2-1). -/
inductive Governing where
  | rest
  | demand
  | cap
  | limitFloor
  | limitCeiling
  | throttle
  | force
  deriving DecidableEq, Repr

/-- The stage of a wake (R118 to R120). -/
inductive WakeStage where
  | rail
  | gate
  | clock
  deriving DecidableEq, Repr

/-- The nine domain states (R63, Table 4-2); the wake stage is held while the state is WAKING (R62). -/
inductive DomainState where
  | steady
  | raising
  | stepping
  | consent
  | parking
  | parked
  | waking (stage : WakeStage)
  | frozen
  | off
  deriving DecidableEq, Repr

/-- A strobe that is due and not yet driven: of a step, with the clock code, or a stop strobe (R69, R70, R110). -/
inductive Strobe where
  | step (clock : Byte)
  | stop
  deriving DecidableEq, Repr

/-- The fault cause of a domain (R62). -/
inductive DomainCause where
  | none
  | rail
  | clock
  deriving DecidableEq, Repr

/-- A domain controller: the resolution state of Table 2-1 (R26) and the movement state of Table 4-1 (R62). Timers
hold their remaining time in µs. `assuredNews` is a change of the rail's assured code on its way to the domain (R83). -/
structure Domain where
  target : Level
  source : Governing
  force : Option Level
  throttled : Bool
  settled : Bool
  state : DomainState
  current : Level
  step : Option Level
  strobe : Option Strobe
  need : Option Byte
  lockTimer : Option Nat
  gateTimer : Option Nat
  quietTimer : Option Nat
  cause : DomainCause
  gated : Bool
  assuredNews : Bool
  deriving DecidableEq, Repr

/-! ### Rail controllers and the regulator link (Chapter 5) -/

/-- The seven rail states (R84, Table 5-3). -/
inductive RailState where
  | steady
  | raising
  | lowering
  | retention
  | fallback
  | held
  | shutdown
  deriving DecidableEq, Repr

/-- The fault cause of a rail (R84, Table 5-5). -/
inductive RailCause where
  | none
  | nak
  | noReply
  | pgLow
  | pgFall
  deriving DecidableEq, Repr

/-- The try number of an outstanding command (R84). -/
inductive Try where
  | one
  | two
  deriving DecidableEq, Repr

/-- The phase of an outstanding command; the settle deadline is present in SETTLING only (R84). -/
inductive CommandPhase where
  | awaitingReply
  | settling (deadline : Nat)
  deriving DecidableEq, Repr

/-- The command of a rail: at most one of queued and outstanding is present (R84). -/
inductive Command where
  | none
  | queued (code : Byte)
  | outstanding (code : Byte) (tries : Try) (phase : CommandPhase)
  deriving DecidableEq, Repr

/-- A rail controller (R84, Table 5-1). -/
structure Rail where
  state : RailState
  confirmed : Byte
  required : Byte
  command : Command
  min : Byte
  max : Byte
  fallback : Byte
  retention : Byte
  stepTime : Byte
  cause : RailCause
  deriving DecidableEq, Repr

/-- The transfer awaiting reply (R89), with the mark of a disregarded one (R94). -/
structure Transfer where
  rail : RailId
  code : Byte
  tries : Try
  bit : Bool
  disregarded : Bool
  deriving DecidableEq, Repr

/-- The regulator link controller (R89). The waiting set is the set of rails with a queued command (R88, R89) and
is not held a second time. `resetHold` is the remaining reset hold. `elected` is the waiting rail chosen for the
free link, whose command LINK_SEND sends (R90). `frame` is the command frame last driven on RLDAT (R162). -/
structure Link where
  transfer : Option Transfer
  replyTimer : Option Nat
  lastServed : RailId
  bit : Bool
  resetHold : Option Nat
  elected : Option RailId
  frame : Option (Byte × Byte)
  deriving DecidableEq, Repr

/-! ### The park controller (Chapter 6) -/

/-- The park controller (R106, Table 6-1): the consent queue, oldest first, the outstanding request with its timer
in µs, the consent timeout as its count, and CDOM. CREQ is high while a request is outstanding. -/
structure Park where
  queue : List DomainId
  request : Option (DomainId × Nat)
  timeout : Byte
  cdom : BitVec 4
  deriving DecidableEq, Repr

/-! ### The notice unit (Chapter 8) -/

/-- A port's pending set, oldest first, and its lost flag (R140). `leaving` names the records of the port that are
retired and whose EXPIRED or EVICTED is still on its way: their IN_FORCE or CLAMPED leaves the set in the one arrival
with it (R142; notes/assumptions/10.md). `turns` counts how often the port's ALERT condition has changed (R146), the
model's own count (notes/assumptions/14.md). -/
structure Box where
  pending : List Notice
  lost : Bool
  leaving : List Handle
  turns : Nat
  deriving DecidableEq, Repr

/-! ### Request ports (Chapter 9) -/

/-- The response slot (R148). -/
inductive Slot where
  | empty
  | working
  | ready (held : Frame)
  deriving DecidableEq, Repr

/-- What a port has passed on and its block has not yet taken: a request, with whether the slot still waits for its
answer (R156, R159), or the loss of the port (R157). -/
inductive Sent where
  | request (i : Instr) (awaited : Bool)
  | loss
  deriving DecidableEq, Repr

/-- What a first bit can have found at a port between two changes of it (R149): its slot, FRAMING and presence, the ALERT
of the port as it stood last, and whether ALERT has also stood at the other level (R146). -/
structure View where
  slot : Slot
  framing : Bool
  present : Bool
  alert : Bool
  varied : Bool
  deriving DecidableEq, Repr

/-- A request port (R148, Table 9-1), with what it has passed on, oldest first (R151). `past` holds what first bits can
have found before the port's changes since its last transaction was released, the latest first, and `since` the count of
ALERT at the last change or release: both are the model's own notes (notes/assumptions/14.md). -/
structure Port where
  slot : Slot
  framing : Bool
  present : Bool
  sent : List Sent
  past : List View
  since : Nat
  deriving DecidableEq, Repr

/-- What the shared SDO carried in one transaction (R149, R153, R157): the port of the transaction, and the level in each
SCK cycle, absent in a cycle in which the part did not drive SDO. -/
structure Shifted where
  port : PortId
  levels : List (Option Bool)
  deriving DecidableEq, Repr

/-! ### The whole part -/

/-- The levels of the inputs that the part reads as levels: THR0, THR1, CGRANT, CDENY and, as last read, PG. -/
structure Pins where
  thr0 : Bool
  thr1 : Bool
  cgrant : Bool
  cdeny : Bool
  pg : Vector Bool 4
  deriving DecidableEq, Repr

/-- The clock-select strobe bus: the strobe last carried (R69, R110). -/
structure Bus where
  ckdom : BitVec 4
  ckcode : Byte
  deriving DecidableEq, Repr

/-- The state of the TH12. `reports` and `raised` are the reports to domain controllers and the notices on their way
(R9, R142), one inner list of notices for each event that raised them. `choices` counts the free values used, and
`pending` is the queue of commands that wait, first in, first out; both are the model's own. `sdo` is what SDO carried
in the transaction that was last released. -/
structure State where
  phase : Phase
  records : Vector (Option Record) 64
  quotas : Vector Nat 9
  reports : List Report
  setups : Vector Setup 12
  domains : Vector Domain 12
  rails : Vector Rail 4
  link : Link
  park : Park
  boxes : Vector Box 9
  raised : List (List (PortId × Notice))
  ports : Vector Port 9
  sdo : Option Shifted
  pins : Pins
  bus : Option Bus
  choices : Nat
  pending : List Instr
  deriving DecidableEq, Repr

/-- No command of the TH12 stops the part: every one ends in a next state. The type has no constructor, and no
meaning answers with a fault. -/
inductive Fault where
  deriving DecidableEq, Repr

/-- Why a command has no meaning. -/
inductive Refusal where
  /-- Raised by `exec`'s arm of a command that is not modelled yet; safe. No arm raises it. -/
  | notModelled (mnemonic : String)
  deriving DecidableEq, Repr

/-! ### Reset -/

/-- The entry of a level after pin reset (R44, Table 3-1). -/
def resetPoint (valid : Bool) : Point := { valid := valid, clock := 0x00, volt := 0x80 }

/-- The operating point table after pin reset: L0 valid, the others not (R44, Table 3-1). -/
def resetPoints : Vector Point 16 := (Vector.replicate 16 (resetPoint false)).set 0 (resetPoint true)

/-- The configuration record of Dn after pin reset (R46, Table 3-2). -/
def resetConfiguration (rail : RailId) : Configuration where
  rest := 0
  safe := 0
  floorLimit := 0
  ceilingLimit := 15
  throttleLine := none
  throttleLevel := 0
  rail := rail
  lockCount := 20
  gateCount := 10
  park := false
  window := 10
  policy := .stay

def resetSetup (rail : RailId) : Setup where
  points := resetPoints
  config := resetConfiguration rail

/-- A domain controller after pin reset (R26, R62, R81). -/
def resetDomain : Domain where
  target := 0
  source := .rest
  force := none
  throttled := false
  settled := true
  state := .steady
  current := 0
  step := none
  strobe := none
  need := some 0x80
  lockTimer := none
  gateTimer := none
  quietTimer := none
  cause := .none
  gated := false
  assuredNews := false

/-- A rail controller after pin reset (R84, R105). -/
def resetRail : Rail where
  state := .steady
  confirmed := 0x80
  required := 0x80
  command := .none
  min := 0x00
  max := 0xFF
  fallback := 0x80
  retention := 0x80
  stepTime := 2
  cause := .none

/-- The link controller at the release of RESET_N: held busy for the reset hold (R89). -/
def resetLink : Link where
  transfer := none
  replyTimer := none
  lastServed := 3
  bit := false
  resetHold := some Config.resetHold
  elected := none
  frame := none

/-- The park controller after pin reset (R106, Table 6-1). -/
def resetPark : Park where
  queue := []
  request := none
  timeout := 20
  cdom := 0

/-- A pending set after pin reset (R147). -/
def resetBox : Box where
  pending := []
  lost := false
  leaving := []
  turns := 0

/-- A request port after pin reset; S is always present (R148, R160). -/
def resetPort (present : Bool) : Port where
  slot := .empty
  framing := false
  present := present
  sent := []
  past := []
  since := 0

/-- Every block at its pin reset values, the input pins at the levels they have at the release of RESET_N. -/
def State.ofReset (inputs : InputLevels) : State where
  phase := .setup
  records := Vector.replicate 64 none
  quotas := (Vector.replicate 9 8).set 8 16
  reports := []
  setups := #v[resetSetup 0, resetSetup 1, resetSetup 2, resetSetup 3, resetSetup 0, resetSetup 1, resetSetup 2,
    resetSetup 3, resetSetup 0, resetSetup 1, resetSetup 2, resetSetup 3]
  domains := Vector.replicate 12 resetDomain
  rails := Vector.replicate 4 resetRail
  link := resetLink
  park := resetPark
  boxes := Vector.replicate 9 resetBox
  raised := []
  ports := #v[resetPort inputs.present[0], resetPort inputs.present[1], resetPort inputs.present[2],
    resetPort inputs.present[3], resetPort inputs.present[4], resetPort inputs.present[5],
    resetPort inputs.present[6], resetPort inputs.present[7], resetPort true]
  sdo := none
  pins := { thr0 := inputs.thr0, thr1 := inputs.thr1, cgrant := inputs.cgrant, cdeny := inputs.cdeny, pg := inputs.pg }
  bus := none
  choices := 0
  pending := []

/-- The input levels of State.reset: every agent present, PG high, the throttle and answer lines low
(DESIGN CHOICE, notes/assumptions/1.md). -/
def quietInputs : InputLevels where
  present := Vector.replicate 8 true
  thr0 := false
  thr1 := false
  cgrant := false
  cdeny := false
  pg := Vector.replicate 4 true

/-- The part right after pin reset. -/
def State.reset : State := State.ofReset quietInputs

end Sys2Proof.Machine
end

