-- ==== Sys2Proof/Machine/Ops.lean ====
section
/-! DEFINITION. The named operations over the state that every command uses: reading and writing one block, the
views of the demand table, the placing and removing of notices, retirement, and the reports in flight. -/

namespace Sys2Proof.Machine

/-! ### One block of the part -/

def State.record (s : State) (h : Handle) : Option Record := s.records[h]
def State.quota (s : State) (p : PortId) : Nat := s.quotas[p]
def State.setup (s : State) (d : DomainId) : Setup := s.setups[d]
def State.domain (s : State) (d : DomainId) : Domain := s.domains[d]
def State.rail (s : State) (v : RailId) : Rail := s.rails[v]
def State.box (s : State) (p : PortId) : Box := s.boxes[p]
def State.port (s : State) (p : PortId) : Port := s.ports[p]

def State.setRecord (s : State) (h : Handle) (r : Option Record) : State := { s with records := s.records.set h r }
def State.setQuota (s : State) (p : PortId) (n : Nat) : State := { s with quotas := s.quotas.set p n }
def State.setSetup (s : State) (d : DomainId) (x : Setup) : State := { s with setups := s.setups.set d x }
def State.setDomain (s : State) (d : DomainId) (c : Domain) : State := { s with domains := s.domains.set d c }
def State.setRail (s : State) (v : RailId) (r : Rail) : State := { s with rails := s.rails.set v r }
def State.setBox (s : State) (p : PortId) (b : Box) : State := { s with boxes := s.boxes.set p b }
def State.setPort (s : State) (p : PortId) (q : Port) : State := { s with ports := s.ports.set p q }

/-- The same change made to every live record. -/
def State.mapRecords (f : Record → Record) (s : State) : State :=
  { s with records := mapAll (Option.map f) s.records }

/-! ### Codes: a higher code is a higher voltage (section 6.3 of the scope) -/

/-- The higher of two codes. -/
def higherCode (a b : Byte) : Byte := if a < b then b else a

/-- The lower of two codes. -/
def lowerCode (a b : Byte) : Byte := if a < b then a else b

/-! ### Operating points and the rail map (R44, R46, R85) -/

def State.config (s : State) (d : DomainId) : Configuration := (s.setup d).config
def State.point (s : State) (d : DomainId) (l : Level) : Point := (s.setup d).points[l]

/-- code(Lx) of domain d (R45). -/
def State.code (s : State) (d : DomainId) (l : Level) : Byte := (s.point d l).volt

def State.setConfig (s : State) (d : DomainId) (c : Configuration) : State :=
  s.setSetup d { s.setup d with config := c }

def State.setPoint (s : State) (d : DomainId) (l : Level) (x : Point) : State :=
  s.setSetup d { s.setup d with points := (s.setup d).points.set l x }

/-- The rail a domain is mapped to. -/
def State.railOf (s : State) (d : DomainId) : RailId := (s.config d).rail

/-- The domains mapped to a rail, in ascending order (R85). -/
def State.mapped (s : State) (v : RailId) : List DomainId := allDomains.filter fun d => s.railOf d = v

/-! ### Views of the demand table (R2 to R4) -/

/-- The live records with their handles, in ascending order of handle. -/
def State.live (s : State) : List (Handle × Record) :=
  allHandles.filterMap fun h => (s.record h).map fun r => (h, r)

/-- The live count of a port (R4). -/
def State.liveCount (s : State) (p : PortId) : Nat := (s.live.filter fun x => x.2.owner = p).length

/-- The live record with a key (R2). -/
def State.findKey (s : State) (p : PortId) (d : DomainId) (cls : DemandClass) : Option (Handle × Record) :=
  s.live.find? fun x => x.2.owner = p && x.2.domain = d && x.2.cls = cls

/-- The lowest handle that no live record holds (R3). -/
def State.lowestFree (s : State) : Option Handle := allHandles.find? fun h => (s.record h).isNone

/-- Whether a live FLOOR record lies on the domain. -/
def State.hasFloor (s : State) (d : DomainId) : Bool := s.live.any fun x => x.2.domain = d && x.2.cls = .floor

/-- The number of live records of a class on a domain (R80). -/
def State.countOn (s : State) (d : DomainId) (cls : DemandClass) : Nat :=
  (s.live.filter fun x => x.2.domain = d && x.2.cls = cls).length

/-- The ports that own a live record on the domain, in ascending order (R39). -/
def State.ownersOn (s : State) (d : DomainId) : List PortId :=
  allPorts.filter fun p => s.live.any fun x => x.2.domain = d && x.2.owner = p

/-- The lease a lease argument gives: 0 is a permanent record (R11, R12, R14). -/
def leaseOf (argument : BitVec 16) : Option Lease :=
  if argument = 0 then none else some { remaining := argument.toNat, due := false }

/-- Generations run from 1 to 255 and 255 advances to 1 (R12). -/
def nextGeneration (g : Byte) : Byte := if g = 255 then 1 else g + 1

/-! ### Notices (Chapter 8) -/

end Sys2Proof.Machine

namespace Sys2Proof

/-- The handle of an IN_FORCE or CLAMPED notice. -/
def Notice.standing : Notice → Option Handle
  | .inForce h _ _ _ => some h
  | .clamped h _ _ _ => some h
  | .expired _ _ => none
  | .evicted _ _ => none
  | .domainHeld _ => none
  | .railFault _ => none
  | .railShutdown _ => none
  | .clockFault _ => none
  | .portLost _ => none
  | .consentSilent _ => none

/-- The handle of a record notice (R139). -/
def Notice.handle : Notice → Option Handle
  | .inForce h _ _ _ => some h
  | .clamped h _ _ _ => some h
  | .expired h _ => some h
  | .evicted h _ => some h
  | .domainHeld _ => none
  | .railFault _ => none
  | .railShutdown _ => none
  | .clockFault _ => none
  | .portLost _ => none
  | .consentSilent _ => none

/-- Two notices of the same kind and subject (R140, R141). -/
def Notice.same : Notice → Notice → Bool
  | .inForce h _ _ _, .inForce k _ _ _ => h = k
  | .clamped h _ _ _, .clamped k _ _ _ => h = k
  | .expired h _, .expired k _ => h = k
  | .evicted h _, .evicted k _ => h = k
  | .domainHeld d, .domainHeld e => d = e
  | .railFault v, .railFault w => v = w
  | .railShutdown v, .railShutdown w => v = w
  | .clockFault d, .clockFault e => d = e
  | .portLost x, .portLost y => x = y
  | .consentSilent d, .consentSilent e => d = e
  | _, _ => false

/-- IN_FORCE against CLAMPED for one handle (R141, case 1). -/
def Notice.opposes : Notice → Notice → Bool
  | .inForce h _ _ _, .clamped k _ _ _ => h = k
  | .clamped h _ _ _, .inForce k _ _ _ => h = k
  | _, _ => false

end Sys2Proof

namespace Sys2Proof.Machine

/-- The ALERT condition: the pending set is not empty or the lost flag is set (R146). -/
def Box.alerting (b : Box) : Bool := !b.pending.isEmpty || b.lost

/-- A pending set and its flag change from `b` to `c` in one event; a change of the ALERT condition, which is part of the
event (R146), is counted. -/
def Box.become (b c : Box) : Box := { c with turns := if c.alerting = b.alerting then b.turns else b.turns + 1 }

/-- The removal of any pending IN_FORCE or CLAMPED for a handle (R143). -/
def Box.dropStanding (b : Box) (h : Handle) : Box :=
  b.become { b with pending := b.pending.filter fun n => n.standing ≠ some h }

/-- A record of the port is retired with a notice: the removal of its IN_FORCE or CLAMPED goes with that notice (R142). -/
def Box.leave (b : Box) (h : Handle) : Box := if h ∈ b.leaving then b else { b with leaving := b.leaving ++ [h] }

/-- The removal that is due for a handle is made (R142). -/
def Box.clear (b : Box) (h : Handle) : Box :=
  if h ∈ b.leaving then { b.dropStanding h with leaving := b.leaving.filter fun k => k ≠ h } else b

/-- The four cases in which an arriving notice is placed (R141). -/
def Box.join (b : Box) (n : Notice) : Box :=
  let kept := b.pending.filter fun m => !n.opposes m
  if kept.any fun m => n.same m then
    { b with pending := kept.map fun m => if n.same m then n else m }
  else if kept.length < Config.boxCapacity then
    { b with pending := kept ++ [n] }
  else
    { b with pending := kept, lost := true }

/-- One arrival: the removal that goes with the notice, then the placing (R141, R142). The first record notice for a
handle to arrive after a retirement makes the removal, so that the old record's IN_FORCE or CLAMPED is never taken for
one of a later record. -/
def Box.place (b : Box) (n : Notice) : Box :=
  b.become (match n.handle with
    | some h => (b.clear h).join n
    | none => b.join n)

/-- A notice reaches the notice unit (R141). -/
def State.place (s : State) (x : PortId × Notice) : State := s.setBox x.1 ((s.box x.1).place x.2)

/-- Notices placed in the event that raises them, in order (R142). -/
def State.placeAll (s : State) (xs : List (PortId × Notice)) : State := xs.foldl State.place s

/-- Notices that one event raises and that the notice unit takes later, one at a time (R142). -/
def State.raise (s : State) (xs : List (PortId × Notice)) : State :=
  if xs = [] then s else { s with raised := s.raised ++ [xs] }

/-- DOMAIN_HELD(d) for each port that owns a live record on d (R39). -/
def State.heldNotices (s : State) (d : DomainId) : List (PortId × Notice) :=
  (s.ownersOn d).map fun p => (p, .domainHeld d)

/-- The first notice of port p in a list, taken out, where it is n. -/
def takeFirst (p : PortId) (n : Notice) : List (PortId × Notice) → Option (List (PortId × Notice))
  | [] => none
  | x :: xs =>
    if x.1 = p then (if x.2 = n then some xs else none)
    else (takeFirst p n xs).map fun ys => x :: ys

/-- Notice n of port p taken from the first event whose next notice for p it is: the notices of one event reach a
port in order, those of different events in any (R142). -/
def takeRaised (p : PortId) (n : Notice) : List (List (PortId × Notice)) → Option (List (List (PortId × Notice)))
  | [] => none
  | xs :: rest =>
    match takeFirst p n xs with
    | some [] => some rest
    | some ys => some (ys :: rest)
    | none => (takeRaised p n rest).map fun zs => xs :: zs

/-- The notices in flight without those of one port; an event left with none is gone. -/
def raisedWithout (p : PortId) (xs : List (List (PortId × Notice))) : List (List (PortId × Notice)) :=
  (xs.map fun ys => ys.filter fun y => y.1 ≠ p).filter fun ys => ys ≠ []

/-! ### Retirement and reports (R9, R16) -/

/-- The removal of a pending IN_FORCE or CLAMPED for a handle from a port's set. -/
def State.dropStanding (s : State) (p : PortId) (h : Handle) : State := s.setBox p ((s.box p).dropStanding h)

/-- A record leaves the table without a notice (R16): its handle is free, its timer is gone with it, and its pending
IN_FORCE or CLAMPED is removed from its owner's set. -/
def State.retire (s : State) (h : Handle) : State :=
  match s.record h with
  | none => s
  | some r => (s.setRecord h none).dropStanding r.owner h

/-- A record leaves the table and a notice of it goes to its owner (R16): the removal of its pending IN_FORCE or CLAMPED
and the notice are one arrival (R142). -/
def State.retireNotified (s : State) (h : Handle) : State :=
  match s.record h with
  | none => s
  | some r => (s.setRecord h none).setBox r.owner ((s.box r.owner).leave h)

/-- One report to the controller of a domain (R9). -/
def State.report (s : State) (d : DomainId) (h : Handle) (k : ReportKind) : State :=
  { s with reports := s.reports ++ [{ domain := d, items := [(h, k)] }] }

/-- The reports of several retirements: each domain with an affected record receives those of its records
together (R9). -/
def retirementReports (gone : List (Handle × Record)) : List Report :=
  allDomains.filterMap fun d =>
    let mine := gone.filter fun x => x.2.domain = d
    if mine = [] then none else some { domain := d, items := mine.map fun x => (x.1, .retired) }

/-- Every record of a selection leaves the table by `out`, and then the reports go out (R9, R22, R23, R24). -/
def State.retireSelected (s : State) (out : State → Handle → State) (gone : List (Handle × Record)) : State :=
  let t := (gone.map Prod.fst).foldl out s
  { t with reports := t.reports ++ retirementReports gone }

/-- The oldest report in flight to a domain, taken out. -/
def takeReportOf (d : DomainId) : List Report → Option (List Report)
  | [] => none
  | r :: rest => if r.domain = d then some rest else (takeReportOf d rest).map fun xs => r :: xs

/-! ### Free orders -/

/-- The domains `ds` in the order in which `order` names them, those it does not name last: a permutation of `ds`
whatever `order` is. -/
def arrange (order ds : List DomainId) : List DomainId :=
  (order.filter fun d => d ∈ ds).dedup ++ ds.filter fun d => d ∉ order

/-- The order in which several domain controllers take one event, and the state that counts the choice (R31, R41,
R133; DESIGN CHOICE, notes/assumptions/6.md). -/
def State.inFreeOrder (s : State) (ds : List DomainId) : List DomainId × State :=
  if ds.length ≤ 1 then (ds, s) else (arrange (Config.domainOrder s.choices) ds, { s with choices := s.choices + 1 })

/-! ### What first bits can have found (R146, R149) -/

/-- What a first bit can find at a port since its last change. ALERT of an absent port is deasserted (R158). -/
def State.view (s : State) (p : PortId) : View :=
  let q := s.port p
  let b := s.box p
  { slot := q.slot, framing := q.framing, present := q.present
    alert := q.present && b.alerting, varied := q.present && b.turns ≠ q.since }

/-- A port changes between two transactions: what first bits can have found until then is `v`. -/
def State.changePort (s : State) (p : PortId) (v : View) (q : Port) : State :=
  s.setPort p { q with past := v :: (s.port p).past, since := (s.box p).turns }

/-- A transaction of a port is released: no later first bit can find what was before. -/
def State.releasePort (s : State) (p : PortId) : State :=
  s.setPort p { s.port p with past := [], since := (s.box p).turns }

/-! ### Requests on their way, and their answers (R151, R156, R159) -/

/-- The request that is next on its way from port p, where it is `i`: whether its answer is awaited, and the state
without it. The requests of one port reach their blocks in order, and none ahead of a loss that was handed on
before it (R151, R157). -/
def State.takeSent (s : State) (p : PortId) (i : Instr) : Option (Bool × State) :=
  match (s.port p).sent with
  | .request j awaited :: rest =>
    if j = i then some (awaited, s.setPort p { s.port p with sent := rest }) else none
  | _ => none

/-- An answer returns to its port, which first bits can have found as `v` until then: it makes a WORKING slot READY, and
is dropped where the slot no longer waits for it (R156, R159). -/
def State.answer (s : State) (p : PortId) (awaited : Bool) (v : View) (f : Frame) : State :=
  if awaited && (s.port p).slot = .working then s.changePort p v { s.port p with slot := .ready f } else s

end Sys2Proof.Machine

namespace Sys2Proof

/-- Whether a loss taken at the demand table and the notice unit discards a request on its way: those of the demand
table and TAKE-NOTICE (R25, R159). -/
def Instr.lostWithPort : Instr → Bool
  | .file _ _ _ _ _ _ => true
  | .renew _ _ _ => true
  | .release _ _ => true
  | .readDemand _ _ => true
  | .nextDemand _ _ => true
  | .takeNotice _ => true
  | _ => false

end Sys2Proof

namespace Sys2Proof.Machine

/-- What is left on its way from a port once its first loss is taken: the loss is gone, and with it the requests
ahead of it that it discards. `none` where no loss is on its way (R25, R159). -/
def takeLoss : List Sent → Option (List Sent)
  | [] => none
  | .loss :: rest => some rest
  | .request i awaited :: rest =>
    (takeLoss rest).map fun xs => if i.lostWithPort then xs else .request i awaited :: xs

/-! ### The passing of time -/

/-- A running timer after one µs more. -/
def tickTimer (t : Option Nat) : Option Nat := t.map fun n => n - 1

def Domain.tick (c : Domain) : Domain :=
  { c with lockTimer := tickTimer c.lockTimer, gateTimer := tickTimer c.gateTimer, quietTimer := tickTimer c.quietTimer }

def Rail.tick (r : Rail) : Rail :=
  match r.command with
  | .outstanding code tries (.settling t) => { r with command := .outstanding code tries (.settling (t - 1)) }
  | _ => r

/-- One µs of the time base passes and nothing is commanded: every running timer counts down, and one that has run
down waits at 0 for its expiry to be taken (DESIGN CHOICE, notes/assumptions/2.md). -/
def State.tick (s : State) : State :=
  { s with
    domains := mapAll Domain.tick s.domains
    rails := mapAll Rail.tick s.rails
    link := { s.link with replyTimer := tickTimer s.link.replyTimer, resetHold := tickTimer s.link.resetHold }
    park := { s.park with request := s.park.request.map fun x => (x.1, x.2 - 1) } }

end Sys2Proof.Machine
end

