-- ==== Sys2Proof/Machine/Flags.lean ====
section
/-! DEFINITION. The conditions and flags the part computes from its state, and the outputs it drives from them: ALERT,
GATE, CREQ, RAILEN, the settled condition, the quiet conditions, and the bits of the status byte. -/

namespace Sys2Proof.Machine

/-- A bit as a byte of value 0 or 1. -/
def bit (b : Bool) : Byte := if b then 1 else 0

/-- The condition of a settled domain (R36). -/
def Domain.isSettled (c : Domain) : Bool := c.state = .steady && c.current = c.target

/-- The conditions under which a domain's quiet timer runs (R78). -/
def State.quiet (s : State) (d : DomainId) : Bool :=
  (s.domain d).settled && (s.config d).park && !s.hasFloor d && (s.domain d).force = none

/-- Whether a live FLOOR record or a force level keeps a domain from parking, or wakes it (R77, R115, R117). -/
def State.wanted (s : State) (d : DomainId) : Bool := s.hasFloor d || (s.domain d).force.isSome

/-- A domain frozen in place (R127). -/
def Domain.inPlace (c : Domain) : Bool := c.state = .frozen && (c.gated || c.step = none)

/-- A rail in FALLBACK, HELD or SHUTDOWN. -/
def Rail.faulted (r : Rail) : Bool := r.state = .fallback || r.state = .held || r.state = .shutdown

/-- ALERT of a port: its pending set is not empty or its lost flag is set (R146); deasserted while the port is
absent (R158; notes/assumptions/12.md). Where PRESENT rises before the loss is taken, ALERT follows the set as it stands
until PORT_LOSS empties it (DESIGN CHOICE, notes/assumptions/27.md). -/
def State.alert (s : State) (p : PortId) : Bool :=
  (s.port p).present && (s.box p).alerting

/-- GATE of a domain is open (R76). -/
def State.gateOpen (s : State) (d : DomainId) : Bool := !(s.domain d).gated

/-- CREQ (R106). -/
def State.creq (s : State) : Bool := s.park.request.isSome

/-- RAILEN of a rail (R84, R131). -/
def State.railEnable (s : State) (v : RailId) : Bool := (s.rail v).state ≠ .shutdown

/-- The level of a throttle input (R31). -/
def State.thr (s : State) : ThrottleLine → Bool
  | .thr0 => s.pins.thr0
  | .thr1 => s.pins.thr1

/-- PG of a rail as it was last read. -/
def State.pg (s : State) (v : RailId) : Bool := s.pins.pg[v]

/-- The part reads the level of a rail's PG input, or takes its fall. -/
def State.samplePg (s : State) (v : RailId) (level : Bool) : State :=
  { s with pins := { s.pins with pg := s.pins.pg.set v level } }

/-- The consent channel is free (R108). -/
def State.channelFree (s : State) : Bool := !s.creq && !s.pins.cgrant && !s.pins.cdeny

/-- The regulator link is busy (R89). -/
def State.linkBusy (s : State) : Bool := s.link.transfer.isSome || s.link.resetHold.isSome

/-- The status byte: FRAMING in bit 7, ALERT in bit 6, the status code below (R149, Table 10-1). -/
def statusByte (framing alert : Bool) (code : Byte) : Byte :=
  (bit framing <<< 7) ||| (bit alert <<< 6) ||| code

end Sys2Proof.Machine
end

