-- ==== Sys2Proof/Machine/Operands.lean ====
section
/-! DEFINITION. The layouts of Chapter 10: status codes, the answers of the owning blocks with their result fields,
the marker frames, and the frames of the regulator link. -/

namespace Sys2Proof.Machine

/-- The status codes (Table 10-10). -/
inductive StatusCode where
  | ok
  | noAnswer
  | working
  | absent
  | unknownCommand
  | notPermitted
  | badArgument
  | wrongPhase
  | noHandle
  | notOwner
  | tableFull
  | quotaReached
  | noNotice
  | noneLeft
  | inUse
  | outOfWindow
  | stillLive
  | notFaulted
  | faultBusy
  | railShut
  | quotaInUse
  deriving DecidableEq, Repr

/-- The value of a status code (Table 10-10). -/
def StatusCode.toByte : StatusCode → Byte
  | .ok => 0x00
  | .noAnswer => 0x01
  | .working => 0x02
  | .absent => 0x03
  | .unknownCommand => 0x10
  | .notPermitted => 0x11
  | .badArgument => 0x12
  | .wrongPhase => 0x13
  | .noHandle => 0x20
  | .notOwner => 0x21
  | .tableFull => 0x22
  | .quotaReached => 0x23
  | .noNotice => 0x24
  | .noneLeft => 0x25
  | .inUse => 0x30
  | .outOfWindow => 0x31
  | .stillLive => 0x32
  | .notFaulted => 0x33
  | .faultBusy => 0x34
  | .railShut => 0x35
  | .quotaInUse => 0x36

/-- What a block answers: OK with the result bytes 2 to 7, or a refusal (R161). -/
inductive Reply where
  | ok (b2 b3 b4 b5 b6 b7 : Byte)
  | refuse (code : StatusCode)
  deriving DecidableEq, Repr

/-- OK without result fields. -/
def Reply.done : Reply := .ok 0 0 0 0 0 0

/-- The response frame of an answer; bits 7 and 6 of byte 0 are filled in when it is shifted out (R149, R161). -/
def Reply.frame (command : Byte) : Reply → Frame
  | .ok b2 b3 b4 b5 b6 b7 => ⟨StatusCode.ok.toByte, command, b2, b3, b4, b5, b6, b7⟩
  | .refuse code => ⟨code.toByte, command, 0, 0, 0, 0, 0, 0⟩

/-- A marker frame (Table 10-2). -/
def marker (code : StatusCode) : Frame := ⟨code.toByte, 0, 0, 0, 0, 0, 0, 0⟩

end Sys2Proof.Machine

namespace Sys2Proof

/-- A frame with its FRAMING and ALERT bits (R149). -/
def Frame.withFlags (f : Frame) (framing alert : Bool) : Frame :=
  { f with b0 := Machine.statusByte framing alert f.b0 }

/-- Byte n of a frame; 00h beyond its eight. -/
def Frame.byteAt (f : Frame) : Nat → Byte
  | 0 => f.b0
  | 1 => f.b1
  | 2 => f.b2
  | 3 => f.b3
  | 4 => f.b4
  | 5 => f.b5
  | 6 => f.b6
  | 7 => f.b7
  | _ => 0

/-- The bit of a frame that SCK cycle k shifts, counted from 0: most significant bit of each byte first (section 9.2). -/
def Frame.bitAt (f : Frame) (k : Nat) : Bool := (f.byteAt (k / 8)).getMsbD (k % 8)

/-- The command code of a request (Table 10-3); 00h for the rows that are no requests. -/
def Instr.commandCode : Instr → Byte
  | .file _ _ _ _ _ _ => 0x10
  | .renew _ _ _ => 0x11
  | .release _ _ => 0x12
  | .readDemand _ _ => 0x18
  | .nextDemand _ _ => 0x19
  | .readDomain _ _ _ => 0x20
  | .readRail _ _ _ => 0x21
  | .readPoint _ _ _ => 0x22
  | .takeNotice _ => 0x28
  | .setPoint _ _ _ _ _ => 0x40
  | .setLevels _ _ _ _ _ => 0x41
  | .setThrottle _ _ _ => 0x42
  | .setTimes _ _ _ => 0x43
  | .map _ _ => 0x44
  | .setPark _ _ _ _ => 0x45
  | .setConsent _ => 0x46
  | .setRail _ _ _ _ _ _ => 0x47
  | .setQuota _ _ => 0x48
  | .openPhase => 0x50
  | .closePhase => 0x51
  | .force _ _ => 0x52
  | .evictHandleForm _ => 0x53
  | .evictPortForm _ => 0x53
  | .clearFaultRailForm _ => 0x54
  | .clearFaultDomainForm _ => 0x54
  | .restartTables => 0x55
  | .readPort _ => 0x58
  | _ => 0x00

def DemandClass.number : DemandClass → Nat
  | .floor => 0
  | .cap => 1

end Sys2Proof

namespace Sys2Proof.Machine

/-! ### Numbers of the enumerated values -/

/-- A number below 256 as a byte. -/
def byte (n : Nat) : Byte := BitVec.ofNat 8 n

/-- Two four-bit values in one byte, the first in bits 7 to 4. -/
def nibbles (high low : Nat) : Byte := byte (high * 16 + low)

/-- Table 10-5, byte 3. -/
def Status.number : Status → Nat
  | .pending => 0
  | .inForce => 1
  | .clamped => 2
  | .held => 3

/-- Governing source as it is sent (section 10.3). -/
def Governing.number : Governing → Nat
  | .rest => 0
  | .demand => 1
  | .cap => 2
  | .limitFloor => 3
  | .limitCeiling => 4
  | .throttle => 5
  | .force => 6

/-- Domain state as it is sent (section 10.3). -/
def DomainState.number : DomainState → Nat
  | .steady => 0
  | .raising => 1
  | .stepping => 2
  | .consent => 3
  | .parking => 4
  | .parked => 5
  | .waking _ => 6
  | .frozen => 7
  | .off => 8

/-- The wake stage as it is sent (Table 10-6). -/
def DomainState.stageNumber : DomainState → Nat
  | .waking .rail => 1
  | .waking .gate => 2
  | .waking .clock => 3
  | _ => 0

/-- The fault cause of a domain as it is sent (Table 10-6). -/
def DomainCause.number : DomainCause → Nat
  | .none => 0
  | .rail => 1
  | .clock => 2

/-- The rail state as it is sent (Table 10-7). -/
def RailState.number : RailState → Nat
  | .steady => 0
  | .raising => 1
  | .lowering => 2
  | .retention => 3
  | .fallback => 4
  | .held => 5
  | .shutdown => 6

/-- The fault cause of a rail as it is sent (Table 10-7). -/
def RailCause.number : RailCause → Nat
  | .none => 0
  | .nak => 1
  | .noReply => 2
  | .pgLow => 3
  | .pgFall => 4

def Try.number : Try → Nat
  | .one => 1
  | .two => 2

/-- The try number: 0 when no command is outstanding (R104). -/
def Command.tryNumber : Command → Nat
  | .outstanding _ tries _ => tries.number
  | _ => 0

/-- The command code of READ-RAIL: FFh when there is none (R104). -/
def Command.codeByte : Command → Byte
  | .none => 0xFF
  | .queued code => code
  | .outstanding code _ _ => code

/-- The command indication (R104, Table 10-7). -/
def Command.indication : Command → Nat
  | .none => 0
  | .queued _ => 1
  | .outstanding _ _ .awaitingReply => 2
  | .outstanding _ _ (.settling _) => 3

/-- The throttle line as it is sent (Table 10-8). -/
def lineNumber : Option ThrottleLine → Nat
  | none => 0
  | some .thr0 => 1
  | some .thr1 => 2

def Policy.number : Policy → Nat
  | .stay => 0
  | .park => 1

/-! ### Results (Tables 10-4 to 10-9) -/

/-- READ-DEMAND (Table 10-5): lease remaining is sent high byte first, 0000h for a permanent record. The bits of byte 3 to
which the table gives no field are sent as 0 (DESIGN CHOICE, notes/assumptions/29.md). -/
def demandReply (r : Record) : Reply :=
  let left := match r.lease with
    | some t => t.remaining
    | none => 0
  .ok (nibbles r.domain r.level) (byte (r.cls.number * 16 + r.status.number)) r.generation r.acknowledged
    (byte (left / 256)) (byte left)

/-- READ-DOMAIN, page 0 (Table 10-6). The bits of bytes 2 and 5 to which the table gives no field are sent as 0 (DESIGN
CHOICE, notes/assumptions/29.md). -/
def domainPage0 (c : Domain) : Reply :=
  let flags := (if c.step.isSome then 128 else 0) + (if c.force.isSome then 64 else 0)
    + (if c.need.isSome then 32 else 0) + (if c.settled then 16 else 0) + (if c.gated then 8 else 0)
  .ok (nibbles c.state.number c.state.stageNumber) (nibbles c.current c.target)
    (nibbles (c.step.getD 0) (c.force.getD 0)) (byte (flags + c.cause.number)) (byte c.source.number)
    (c.need.getD 0)

/-- READ-DOMAIN, page 1 (Table 10-6): the quiet timer in ms rounded up, 0 when stopped (R80). -/
def domainPage1 (floors caps : Nat) (quiet : Option Nat) : Reply :=
  .ok (byte floors) (byte caps) (byte ((quiet.getD 0 + (Config.quietUnit - 1)) / Config.quietUnit)) 0 0 0

/-- READ-RAIL, page 0 (Table 10-7). The bits of byte 7 to which the table gives no field are sent as 0 (DESIGN CHOICE,
notes/assumptions/29.md). -/
def railPage0 (r : Rail) (assured : Byte) : Reply :=
  .ok (byte (r.state.number * 32 + r.cause.number * 4 + r.command.tryNumber)) r.confirmed r.required assured
    r.command.codeByte (byte r.command.indication)

/-- READ-RAIL, page 1 (Table 10-7). -/
def railPage1 (r : Rail) (mapped : Nat) : Reply :=
  .ok r.min r.max r.fallback r.retention r.stepTime (byte mapped)

/-- READ-POINT, pages 0 to 15 (Table 10-8). -/
def pointPage (x : Point) : Reply := .ok (bit x.valid) x.clock x.volt 0 0 0

/-- READ-POINT, page 16 (Table 10-8). -/
def levelsPage (c : Configuration) : Reply :=
  .ok (byte c.rest) (byte c.safe) (byte c.floorLimit) (byte c.ceilingLimit) (byte c.rail) 0

/-- READ-POINT, page 17 (Table 10-8). -/
def parkPage (c : Configuration) : Reply :=
  .ok (byte (lineNumber c.throttleLine)) (byte c.throttleLevel) (bit c.park) c.window (byte c.policy.number) 0

/-- READ-POINT, page 18 (Table 10-8). -/
def timesPage (c : Configuration) : Reply := .ok c.lockCount c.gateCount 0 0 0 0

/-- The target level and governing source (Table 10-4). -/
def targetReply (c : Domain) : Reply := .ok (byte c.target) (byte c.source.number) 0 0 0 0

/-- FORCE (Table 10-4): an absent force level is sent with force present 0 and force level 00h. -/
def forceReply (c : Domain) : Reply :=
  .ok (byte c.target) (byte c.source.number) (bit c.force.isSome) (byte (c.force.getD 0)) 0 0

/-- A notice as TAKE-NOTICE returns it (Table 10-9). -/
def noticeReply (remaining : Nat) : Notice → Reply
  | .inForce h tag generation level => .ok 0x01 (byte h) tag generation (byte level) (byte remaining)
  | .clamped h tag generation level => .ok 0x02 (byte h) tag generation (byte level) (byte remaining)
  | .expired h tag => .ok 0x03 (byte h) tag 0 0 (byte remaining)
  | .evicted h tag => .ok 0x04 (byte h) tag 0 0 (byte remaining)
  | .domainHeld d => .ok 0x05 (byte d) 0 0 0 (byte remaining)
  | .railFault v => .ok 0x06 (byte v) 0 0 0 (byte remaining)
  | .railShutdown v => .ok 0x07 (byte v) 0 0 0 (byte remaining)
  | .clockFault d => .ok 0x08 (byte d) 0 0 0 (byte remaining)
  | .portLost x => .ok 0x09 (byte x) 0 0 0 (byte remaining)
  | .consentSilent d => .ok 0x0A (byte d) 0 0 0 (byte remaining)

/-- OVERFLOW (R144, Table 10-9). -/
def overflowReply : Reply := .ok 0x0F 0 0 0 0 0

/-! ### The regulator link (Table 10-11, R162) -/

/-- The two-byte command frame: 0101b, 0, the transfer bit, the rail; then the code. -/
def commandFrame (v : RailId) (code : Byte) (transferBit : Bool) : Byte × Byte :=
  (byte (5 * 16 + (if transferBit then 4 else 0) + v), code)

/-- A reply byte read: ACK or NAK, the transfer bit, the address; `none` where bits 7 to 4 are not 1010b (R162). -/
def readReply (b : Byte) : Option (Bool × Bool × RailId) :=
  if b.toNat / 16 = 10 then some (b.getLsbD 3, b.getLsbD 2, ⟨b.toNat % 4, Nat.mod_lt _ (by decide)⟩) else none

/-! ### Serving a request -/

/-- The owning block takes request `i` of port `p` as an event of its own (R156): where it is the next on its way
from the port, it leaves the way, `body` carries it out, and the answer returns to the port. Where it is not, the
part holds no such request, and nothing changes (DESIGN CHOICE, notes/assumptions/3.md). -/
def State.serve (s : State) (p : PortId) (i : Instr) (body : State → State × Reply) : State :=
  match s.takeSent p i with
  | none => s
  | some (awaited, t) =>
    let done := body t
    done.1.answer p awaited (t.view p) (done.2.frame i.commandCode)

end Sys2Proof.Machine
end

