-- ==== Sys2Proof/Machine/RailOps.lean ====
section
/-! DEFINITION. The rail controllers and the regulator link controller at work: the required code (R85), the command
rule (R88), the rail state (Table 5-3), the choice of the next rail (R90), and the sending of a frame (R91, R93). -/

namespace Sys2Proof.Machine

/-- The assured code: the lower of the confirmed code and the code of an outstanding command (R65, R84). -/
def Rail.assured (r : Rail) : Byte :=
  match r.command with
  | .outstanding code _ _ => lowerCode r.confirmed code
  | _ => r.confirmed

def State.assured (s : State) (v : RailId) : Byte := (s.rail v).assured

/-- Every mapped domain is PARKED, or none is mapped (R85, R87). -/
def State.allParked (s : State) (v : RailId) : Bool := (s.mapped v).all fun d => (s.domain d).state = .parked

/-- The needs presented to a rail (R64, R85). -/
def State.needs (s : State) (v : RailId) : List Byte := (s.mapped v).filterMap fun d => (s.domain d).need

/-- The highest of a list of codes. -/
def highestCode (codes : List Byte) : Byte := codes.foldl higherCode 0

/-- The required code (R85, Table 5-2). -/
def State.requiredCode (s : State) (v : RailId) : Byte :=
  let r := s.rail v
  if s.allParked v then r.retention
  else if s.needs v = [] then r.min
  else lowerCode r.max (higherCode r.min (highestCode (s.needs v)))

/-- The command rule (R88). -/
def Rail.commandRule (r : Rail) : Rail :=
  match r.command with
  | .outstanding _ _ _ => r
  | .queued _ => if r.required = r.confirmed then { r with command := .none } else { r with command := .queued r.required }
  | .none => if r.required = r.confirmed then r else { r with command := .queued r.required }

/-- The code of a queued or outstanding command. -/
def Command.code? : Command → Option Byte
  | .none => Option.none
  | .queued code => some code
  | .outstanding code _ _ => some code

/-- The rail state outside fault handling (R87, Table 5-3). -/
def Rail.ordinaryState (r : Rail) (allParked : Bool) : RailState :=
  match r.command.code? with
  | some code => if code > r.confirmed then .raising else .lowering
  | none => if allParked && r.confirmed = r.retention then .retention else .steady

/-! ### The choice of the next rail (R90) -/

/-- A rail in the waiting set: it has a command queued (R88, R89). -/
def State.waiting (s : State) (v : RailId) : Bool :=
  match (s.rail v).command with
  | .queued _ => true
  | _ => false

/-- The first waiting rail after the last rail served, in the order V0, V1, V2, V3, V0 (R90). -/
def State.nextWaiting (s : State) : Option RailId :=
  let l := s.link.lastServed
  [l + 1, l + 2, l + 3, l].find? fun v => s.waiting v

/-- While the link is free, the link controller has chosen a waiting rail if there is one: the first to join, or the
first in the rotation when the link becomes free or the rail chosen withdraws (R88, R90). -/
def State.chooseRail (s : State) : State :=
  if s.linkBusy then { s with link := { s.link with elected := none } }
  else
    match s.link.elected with
    | some v => if s.waiting v then s else { s with link := { s.link with elected := s.nextWaiting } }
    | none => { s with link := { s.link with elected := s.nextWaiting } }

/-- A rail re-evaluates: it works its required code out afresh, applies the command rule and takes the state of
Table 5-3, or, in FALLBACK, HELD or SHUTDOWN, only works the code out (R86, R88). -/
def State.reevaluate (s : State) (v : RailId) : State :=
  let r := { s.rail v with required := s.requiredCode v }
  if r.faulted then s.setRail v r
  else
    let q := r.commandRule
    (s.setRail v { q with state := q.ordinaryState (s.allParked v) }).chooseRail

/-! ### The link -/

/-- A command frame goes out with the transfer bit toggled and the reply timer starts (R91, R93, R162). -/
def State.sendFrame (s : State) (v : RailId) (code : Byte) (tries : Try) : State :=
  let t := !s.link.bit
  { s with
    link := { s.link with
      bit := t
      transfer := some { rail := v, code := code, tries := tries, bit := t, disregarded := false }
      replyTimer := some Config.replyTimeout
      frame := some (commandFrame v code t) } }

/-- The transfer on the link ends and the reply timer stops: the link becomes free (R92 to R94). -/
def State.endTransfer (s : State) : State :=
  { s with link := { s.link with transfer := none, replyTimer := none } }

/-- A change of a rail's assured code is on its way to each domain mapped to the rail (R83, R91, R96). -/
def State.noteAssured (v : RailId) (before after : State) : State :=
  if before.assured v = after.assured v then after
  else (after.mapped v).foldl (fun s d => s.setDomain d { s.domain d with assuredNews := true }) after

end Sys2Proof.Machine
end

