-- ==== Sys2Proof/Machine/Resolution.lean ====
section
/-! DEFINITION. Resolution of a domain's target level and governing source (sections 2.2, 2.3), and the evaluation of
the records on a domain (sections 2.5, 2.6). -/

namespace Sys2Proof.Machine

/-! ### The four steps (Table 2-2) -/

/-- The levels of the live records of a class on a domain, of every owner and status (R28, R29). -/
def State.levelsOn (s : State) (d : DomainId) (cls : DemandClass) : List Level :=
  (s.live.filter fun x => x.2.domain = d && x.2.cls = cls).map fun x => x.2.level

/-- The highest of a level and a list of levels. -/
def highest (start : Level) (ls : List Level) : Level := ls.foldl max start

/-- The lowest of a level and a list of levels. -/
def lowest (start : Level) (ls : List Level) : Level := ls.foldl min start

/-- Step 2a: the rest level and the FLOORs (R28). -/
def floorStep (rest : Level) (floors : List Level) : Level × Governing :=
  if highest rest floors > rest then (highest rest floors, .demand) else (rest, .rest)

/-- Step 2b: the lowest CAP below the base (R29). -/
def capStep (caps : List Level) (b : Level × Governing) : Level × Governing :=
  if lowest b.1 caps < b.1 then (lowest b.1 caps, .cap) else b

/-- Step 2c: the limits (R30). -/
def limitStep (low high : Level) (b : Level × Governing) : Level × Governing :=
  if b.1 < low then (low, .limitFloor)
  else if b.1 > high then (high, .limitCeiling)
  else b

/-- Step 3: the throttle, where the line followed is asserted (R31). -/
def throttleStep (asserted : Bool) (level : Level) (b : Level × Governing) : Level × Governing :=
  if asserted && b.1 > level then (level, .throttle) else b

/-- Step 4: the nearest valid entry, upward within the effective ceiling, else downward (R32). -/
def validStep (valid : Level → Bool) (ceiling result : Level) : Level :=
  if valid result then result
  else
    match allLevels.find? fun l => result < l && l ≤ ceiling && valid l with
    | some l => l
    | none => ((allLevels.filter fun l => l < result && valid l).getLast?).getD 0

/-- Whether the line a domain follows is asserted (R26, R31). -/
def State.throttleAsserted (s : State) (d : DomainId) : Bool :=
  (s.config d).throttleLine.isSome && (s.domain d).throttled

/-- Steps 1 to 2c: the base level and its source (R27 to R30). -/
def State.base (s : State) (d : DomainId) : Level × Governing :=
  match (s.domain d).force with
  | some f => (f, .force)
  | none =>
    limitStep (s.config d).floorLimit (s.config d).ceilingLimit
      (capStep (s.levelsOn d .cap) (floorStep (s.config d).rest (s.levelsOn d .floor)))

/-- The effective ceiling of step 4 (R32). -/
def State.effectiveCeiling (s : State) (d : DomainId) : Level :=
  let c := s.config d
  match (s.domain d).force with
  | some _ => if s.throttleAsserted d then c.throttleLevel else 15
  | none => if s.throttleAsserted d then min c.ceilingLimit c.throttleLevel else c.ceilingLimit

/-- The target level and the governing source that the inputs give as they stand (R27 to R32). -/
def State.resolution (s : State) (d : DomainId) : Level × Governing :=
  let held := throttleStep (s.throttleAsserted d) (s.config d).throttleLevel (s.base d)
  (validStep (fun l => (s.point d l).valid) (s.effectiveCeiling d) held.1, held.2)

/-- The domain controller resolves: the target level and the governing source always hold the latest result (R26). -/
def State.resolve (s : State) (d : DomainId) : State :=
  s.setDomain d { s.domain d with target := (s.resolution d).1, source := (s.resolution d).2 }

/-! ### Record statuses -/

/-- The records on a domain get a new form, the others stay as they are. -/
def State.mapRecordsOn (s : State) (d : DomainId) (f : Record → Record) : State :=
  s.mapRecords fun r => if r.domain = d then f r else r

def Record.unsettle (r : Record) : Record :=
  if r.status = .inForce || r.status = .clamped then { r with status := .pending } else r

def Record.unhold (r : Record) : Record :=
  if r.status = .held then { r with status := .pending } else r

/-- The domain stops being settled: IN_FORCE and CLAMPED records become PENDING (R40). -/
def State.unsettleRecords (s : State) (d : DomainId) : State := s.mapRecordsOn d Record.unsettle

/-- The domain leaves FROZEN: HELD records become PENDING (R40). -/
def State.unholdRecords (s : State) (d : DomainId) : State := s.mapRecordsOn d Record.unhold

/-- The domain is frozen or shut down: every record becomes HELD (R39). -/
def State.holdRecords (s : State) (d : DomainId) : State := s.mapRecordsOn d fun r => { r with status := .held }

/-! ### Evaluation -/

/-- A record against the current level of a settled domain (R37, Table 2-3). -/
def settledVerdict (current : Level) (r : Record) : Verdict :=
  match r.cls with
  | .floor => if current ≥ r.level then .inForce else .clamped
  | .cap => if current ≤ r.level then .inForce else .clamped

/-- A record on a PARKED domain: a CAP is IN_FORCE, and no FLOOR lies there (R38). -/
def parkedVerdict (r : Record) : Option Verdict :=
  match r.cls with
  | .floor => none
  | .cap => some .inForce

def Verdict.status : Verdict → Status
  | .inForce => .inForce
  | .clamped => .clamped

/-- What an evaluation does to a record (R37, R42). -/
def Record.judge (r : Record) (v : Verdict) : Record :=
  { r with
    status := v.status
    acknowledged := if v = .inForce then r.generation else r.acknowledged
    lastSettled := some v }

/-- The notice of an evaluation, raised where the verdict differs from the last settled status (R41). -/
def evaluationNotice (current : Level) (h : Handle) (r : Record) (v : Verdict) : Option (PortId × Notice) :=
  if r.lastSettled = some v then none
  else
    match v with
    | .inForce => some (r.owner, .inForce h r.tag r.generation current)
    | .clamped => some (r.owner, .clamped h r.tag r.generation current)

/-- An evaluation of the live records on a domain by a rule that gives some of them a verdict. The notices are placed
in ascending order of handle, in this event (R37, R38, R41, R42, R142). -/
def State.evaluate (s : State) (d : DomainId) (rule : Record → Option Verdict) : State :=
  let news := s.live.filterMap fun x =>
    if x.2.domain = d then (rule x.2).bind (evaluationNotice (s.domain d).current x.1 x.2) else none
  (s.mapRecordsOn d fun r => ((rule r).map r.judge).getD r).placeAll news

/-- The evaluation of a settled domain (R37). -/
def State.evaluateSettled (s : State) (d : DomainId) : State :=
  s.evaluate d fun r => some (settledVerdict (s.domain d).current r)

/-- The evaluation at park completion, and of a PARKED domain that a resolution leaves parked (R38). -/
def State.evaluateParked (s : State) (d : DomainId) : State := s.evaluate d parkedVerdict

end Sys2Proof.Machine
end

