-- ==== Sys2Proof/Machine/Moves.lean ====
section
/-! DEFINITION. How a domain controller moves: its need (Table 4-3), the plan (R66), steps (R69), settling (R36), the
quiet timer (R78), the consent channel (R108), parking (R110) and waking (R118), and how it acts on a resolution
(R34, R68, R72, R77). -/

namespace Sys2Proof.Machine

/-! ### The need (R64) -/

/-- The need of a domain in its state (R64, Table 4-3). A FROZEN running domain needs the code of the safe level it
was frozen at: its step level while its freezing step is in flight, and its current level afterwards. -/
def State.needOf (s : State) (d : DomainId) : Option Byte :=
  let c := s.domain d
  match c.state with
  | .steady => some (s.code d c.current)
  | .consent => some (s.code d c.current)
  | .raising => some (s.code d c.target)
  | .stepping => some (higherCode (s.code d c.current) (s.code d (c.step.getD c.current)))
  | .waking .rail => some (s.code d c.target)
  | .waking .gate => some (s.code d c.target)
  | .waking .clock => some (higherCode (s.code d (c.step.getD c.target)) (s.code d c.target))
  | .frozen => if c.gated then none else some (s.code d (c.step.getD c.current))
  | .parking => none
  | .parked => none
  | .off => none

def State.refreshNeed (s : State) (d : DomainId) : State :=
  s.setDomain d { s.domain d with need := s.needOf d }

/-! ### The quiet timer (R78) -/

/-- The timer starts with the full window when its conditions come to hold, runs on undisturbed while they do, and
stops when one of them ends (R78). -/
def State.updateQuiet (s : State) (d : DomainId) : State :=
  let c := s.domain d
  let timer :=
    if s.quiet d then
      match c.quietTimer with
      | some t => some t
      | none => some ((s.config d).window.toNat * Config.quietUnit)
    else none
  s.setDomain d { c with quietTimer := timer }

/-! ### Planning and stepping -/

/-- The domain is in STEADY with its current level equal to its target: it is settled, and its records are evaluated
(R36, R66). -/
def State.settle (s : State) (d : DomainId) : State :=
  (s.setDomain d { s.domain d with state := .steady, settled := true }).evaluateSettled d

/-- A step starts: its level is present, and its strobe, with the clock code of the level, is due in place of any
strobe of the domain that is pending. The lock timer starts when the strobe is driven (R69, R70, R127). -/
def State.startStep (s : State) (d : DomainId) (state : DomainState) (level : Level) : State :=
  s.setDomain d { s.domain d with
    state := state
    step := some level
    strobe := some (.step (s.point d level).clock)
    lockTimer := none }

/-- The plan of a domain whose clock runs and which has no step in flight (R66, Table 4-4; R68). -/
def State.plan (s : State) (d : DomainId) : State :=
  let c := s.domain d
  if c.target = c.current then s.settle d
  else
    let t := (s.setDomain d { c with settled := false }).unsettleRecords d
    if s.code d c.target > s.assured (s.railOf d) then t.setDomain d { t.domain d with state := .raising }
    else t.startStep d .stepping c.target

/-! ### The consent channel (R106 to R114) -/

/-- Whenever the channel is free and the queue is not empty, the request at its head is sent (R108). -/
def State.serveConsent (s : State) : State :=
  if s.channelFree then
    match s.park.queue with
    | [] => s
    | d :: rest =>
      { s with
        park := { s.park with
          queue := rest
          request := some (d, s.park.timeout.toNat * Config.consentUnit)
          cdom := BitVec.ofNat 4 d } }
  else s

/-- The outstanding request ends: its timer stops, and CREQ falls (R109). -/
def State.endRequest (s : State) : State := { s with park := { s.park with request := none } }

/-- A domain leaves the queue or the outstanding request (R114). -/
def State.leaveConsent (s : State) (d : DomainId) : State :=
  let p := s.park
  let request := match p.request with
    | some (e, t) => if e = d then none else some (e, t)
    | none => none
  { s with park := { p with queue := p.queue.filter fun e => e ≠ d, request := request } }

/-- A domain joins the tail of the queue, unless it is there already or is the subject of the request (R107). -/
def State.joinConsent (s : State) (d : DomainId) : State :=
  if d ∈ s.park.queue || (s.park.request.map Prod.fst) = some d then s
  else { s with park := { s.park with queue := s.park.queue ++ [d] } }

/-- Withdrawal of a domain in CONSENT for a FLOOR, a force or a disabled park: it enters STEADY and plans, and the
channel serves the next domain once it is free (R113, R114). Where that is in this event (R108), a later edge meant for
the withdrawn request answers the next one (R109), where R114 says that it is ignored (DESIGN CHOICE,
notes/assumptions/30.md). -/
def State.withdraw (s : State) (d : DomainId) : State :=
  let t := (s.leaveConsent d).serveConsent
  (t.setDomain d { t.domain d with state := .steady }).plan d

/-- What a domain does on a deny (R111). -/
def State.denied (s : State) (d : DomainId) : State :=
  (s.setDomain d { s.domain d with state := .steady }).plan d

/-- What a domain does on a grant: it enters PARKING, its stop strobe is due, its GATE closes and its gate settle
timer starts (R110). -/
def State.granted (s : State) (d : DomainId) : State :=
  s.setDomain d { s.domain d with
    state := .parking
    strobe := some .stop
    gated := true
    gateTimer := some ((s.config d).gateCount.toNat * Config.clockUnit) }

/-! ### Waking (R117 to R120) -/

/-- The GATE stage: GATE opens and the gate settle timer starts (R119). -/
def State.enterGate (s : State) (d : DomainId) : State :=
  s.setDomain d { s.domain d with
    state := .waking .gate
    gated := false
    gateTimer := some ((s.config d).gateCount.toNat * Config.clockUnit) }

/-- A domain in the RAIL stage compares its need with the assured code (R118). -/
def State.checkRailStage (s : State) (d : DomainId) : State :=
  if s.assured (s.railOf d) ≥ s.code d (s.domain d).target then s.enterGate d else s

/-- A wake begins at the RAIL stage, with the GATE closed (R118). -/
def State.beginWake (s : State) (d : DomainId) : State :=
  let t := s.unsettleRecords d
  (t.setDomain d { t.domain d with state := .waking .rail, gated := true }).checkRailStage d

/-- A domain enters PARKED: it is evaluated as at park completion (R116). -/
def State.enterParked (s : State) (d : DomainId) : State :=
  (s.setDomain d { s.domain d with state := .parked, gated := true }).evaluateParked d

/-- Entry of the CLOCK stage: back to the RAIL stage where the rail does not cover the target, else the step to the
target starts (R120). On the way back the clock, which has not yet started, is stopped again; the manual does not say
whether a stop strobe is driven for it, and none is (DESIGN CHOICE, notes/assumptions/28.md). -/
def State.enterClock (s : State) (d : DomainId) : State :=
  let c := s.domain d
  if s.code d c.target > s.assured (s.railOf d) then
    s.setDomain d { c with state := .waking .rail, gated := true }
  else s.startStep d (.waking .clock) c.target

/-! ### Acting on a resolution -/

/-- The domain acts on the result of a resolution as its state allows; `old` is the target before it (R34, R36, R68,
R72, Table 4-5, R118). In RAISING a resolution that leaves the target as it was compares nothing (DEDUCED,
notes/assumptions/26.md). In the RAIL stage of a wake it does compare, though R118 names only a change of the target, and
so may open the GATE while a change of the assured code is still on its way (DESIGN CHOICE, notes/assumptions/31.md). -/
def State.act (s : State) (d : DomainId) (old : Level) : State :=
  match (s.domain d).state with
  | .steady => s.plan d
  | .raising => if (s.domain d).target = old then s else s.plan d
  | .stepping => s
  | .consent => if s.wanted d then s.withdraw d else s
  | .parking => s
  | .parked => if s.wanted d then s.beginWake d else s.evaluateParked d
  | .waking .rail => s.checkRailStage d
  | .waking .gate => s
  | .waking .clock => s
  | .frozen => s
  | .off => s

/-- The end of an event of a domain controller, taken with its rail as one event (R65): the quiet timer follows its
conditions, and the need follows the state. -/
def State.closeDomain (s : State) (d : DomainId) : State := (s.updateQuiet d).refreshNeed d

/-- The end of such an event with the rail's taking of the need, or of the entry to PARKED (R65, R86). -/
def State.finish (s : State) (d : DomainId) : State := (s.closeDomain d).reevaluate (s.railOf d)

/-- A domain re-resolves and acts on the result, in one event (R33, R34). -/
def State.reresolve (s : State) (d : DomainId) : State :=
  ((s.resolve d).act d (s.domain d).target).finish d

/-- The completion of a step: the current level becomes the step level (R71, R75). -/
def State.completeStep (s : State) (d : DomainId) (level : Level) : State :=
  s.setDomain d { s.domain d with current := level, step := none, lockTimer := none }

end Sys2Proof.Machine
end

