-- ==== Sys2Proof/Machine/Faulting.lean ====
section
/-! DEFINITION. Fault handling (Chapter 7): the freeze of a domain (R126, R127), the clock fault (R73), entry to
FALLBACK (R125), the fallback command (R129), SHUTDOWN (R131), and the release of a domain (R134, R135). -/

namespace Sys2Proof.Machine

/-- A domain with a running clock and no step in flight is frozen at its safe level, or steps to it (Table 7-2). -/
def State.freezeSteady (s : State) (d : DomainId) : State :=
  let safe := (s.config d).safe
  if (s.domain d).current = safe then s.setDomain d { s.domain d with state := .frozen }
  else s.startStep d .frozen safe

/-- A domain whose clock is stopped is left gated, or gated again (Table 7-2). -/
def State.freezeGated (s : State) (d : DomainId) : State :=
  s.setDomain d { s.domain d with state := .frozen, gated := true }

/-- What the freeze does to the domain by the state it is found in (R126, Table 7-2). A domain that is OFF is not on
a rail that can fault, and stays as it is. -/
def State.freezeByState (s : State) (d : DomainId) : State :=
  match (s.domain d).state with
  | .steady => s.freezeSteady d
  | .raising => s.freezeSteady d
  | .consent => s.freezeSteady d
  | .stepping => s.startStep d .frozen (s.config d).safe
  | .waking .clock => s.startStep d .frozen (s.config d).safe
  | .waking .gate => s.freezeGated d
  | .waking .rail => s.freezeGated d
  | .parking => s.freezeGated d
  | .parked => s.freezeGated d
  | .frozen => s
  | .off => s

/-- A domain is frozen by a fault of its rail (R126): its timers stop, its cause is RAIL, its need is that of
Table 4-3, and its records become HELD. -/
def State.freeze (s : State) (d : DomainId) : State :=
  let t := s.freezeByState d
  let c := t.domain d
  ((t.setDomain d { c with settled := false, quietTimer := none, gateTimer := none, cause := .rail }).refreshNeed d).holdRecords d

/-- A domain with a CLOCK fault, or whose freezing step has failed, is FROZEN gated (R73, R127). -/
def State.freezeAfterTimeout (s : State) (d : DomainId) (cause : DomainCause) : State :=
  s.setDomain d { s.domain d with
    state := .frozen
    settled := false
    step := none
    lockTimer := none
    quietTimer := none
    cause := cause
    gated := true }

/-- A domain becomes OFF (R131). -/
def State.switchOff (s : State) (d : DomainId) : State :=
  ((s.setDomain d { s.domain d with
    state := .off
    settled := false
    step := none
    lockTimer := none
    gateTimer := none
    quietTimer := none
    need := none
    cause := .rail
    gated := true }).holdRecords d)

/-- A rail in FALLBACK queues its fallback code once every domain mapped to it is frozen in place (R129). -/
def State.fallbackCheck (s : State) (v : RailId) : State :=
  let r := s.rail v
  if r.state = .fallback && r.command = .none && (s.mapped v).all fun d => (s.domain d).inPlace then
    (s.setRail v { r with command := .queued r.fallback }).chooseRail
  else s

/-- A transfer whose outcome its rail no longer wants is marked disregarded (R94, R125). -/
def State.disregard (s : State) (v : RailId) : State :=
  match s.link.transfer with
  | some t => if t.rail = v then { s with link := { s.link with transfer := some { t with disregarded := true } } } else s
  | none => s

/-- A rail enters FALLBACK, and its domains are frozen, in one event (R125, R126, R129, R142). The next request for
consent is sent in it where the channel is free (R108, R114; notes/assumptions/21.md, 30.md). -/
def State.enterFallback (s : State) (v : RailId) (cause : RailCause) : State :=
  let stopped := (s.setRail v { s.rail v with state := .fallback, cause := cause, command := .none }).disregard v
  let chosen := stopped.chooseRail
  let ds := chosen.mapped v
  let left := (ds.foldl State.leaveConsent chosen).serveConsent
  let told := left.raise ((supervisor, .railFault v) :: ds.flatMap left.heldNotices)
  ((ds.foldl State.freeze told).reevaluate v).fallbackCheck v

/-- A rail is shut down, and its domains are switched off, in one event (R131, R142). -/
def State.enterShutdown (s : State) (v : RailId) (cause : RailCause) : State :=
  let down := (s.setRail v { s.rail v with state := .shutdown, cause := cause, command := .none }).chooseRail
  let ds := down.mapped v
  let told := down.raise ((supervisor, .railShutdown v) :: ds.flatMap down.heldNotices)
  (ds.foldl State.switchOff told).reevaluate v

/-- A command of a rail fails: a rail in FALLBACK is shut down, any other enters FALLBACK (R93, R96, R97, R129). -/
def State.commandFails (s : State) (v : RailId) (cause : RailCause) : State :=
  if (s.rail v).state = .fallback then s.enterShutdown v cause else s.enterFallback v cause

/-- A command of a rail succeeds: its code is confirmed, a rail in FALLBACK enters HELD, and the rail re-evaluates
(R96, R97, R129, R130). -/
def State.commandSucceeds (s : State) (v : RailId) (code : Byte) : State :=
  let r := s.rail v
  let state := if r.state = .fallback then RailState.held else r.state
  (s.setRail v { r with confirmed := code, command := .none, state := state }).reevaluate v

/-- PG is read at the outcome of a command: high confirms it, low fails it (R96, R97, R129). -/
def State.outcomeByPg (s : State) (v : RailId) (code : Byte) : State :=
  if s.pg v then s.commandSucceeds v code else s.commandFails v .pgLow

/-- A FROZEN domain is released (R134, R135): its cause is none, it re-resolves, its HELD records become PENDING, and
it plans, wakes or parks. Its rail takes the need afterwards. -/
def State.releaseDomain (s : State) (d : DomainId) : State :=
  let t := ((s.setDomain d { s.domain d with cause := .none }).resolve d).unholdRecords d
  let u :=
    if (t.domain d).gated then
      if t.wanted d || !(t.config d).park then t.beginWake d else t.enterParked d
    else (t.setDomain d { t.domain d with state := .steady }).plan d
  u.closeDomain d

end Sys2Proof.Machine
end

