-- ==== Sys2Proof/Machine/DomainEvents.lean ====
section
/-! DEFINITION. The events of the domain controllers: reports, throttle edges, strobes, LOCK edges and lock timeouts,
and changes of the assured code (Chapters 2, 4; R127). -/

namespace Sys2Proof.Machine

/-- RECORD_REPORT: the controller takes the reports of one request together and re-resolves (R9, R33). -/
def execRecordReport (d : DomainId) (s : State) : Host.Outcome State Fault Refusal :=
  match takeReportOf d s.reports with
  | none => .next s
  | some rest => .next ({ s with reports := rest }.reresolve d)

/-- A throttle input takes a level. -/
def State.setThr (s : State) (line : ThrottleLine) (level : Bool) : State :=
  match line with
  | .thr0 => { s with pins := { s.pins with thr0 := level } }
  | .thr1 => { s with pins := { s.pins with thr1 := level } }

/-- The controller of a domain that follows the line takes its edge (R31). -/
def State.takeEdge (level : Bool) (s : State) (d : DomainId) : State :=
  (s.setDomain d { s.domain d with throttled := level }).reresolve d

/-- THROTTLE_EDGE: each domain that follows the line takes the edge, in an order that is free (R31). Where the input
has the level already, there is no edge. -/
def execThrottleEdge (line : ThrottleLine) (rising : Bool) (s : State) : Host.Outcome State Fault Refusal :=
  if s.thr line = rising then .next s
  else
    let t := s.setThr line rising
    let x := t.inFreeOrder (allDomains.filter fun d => (t.config d).throttleLine = some line)
    .next (x.1.foldl (State.takeEdge rising) x.2)

/-- The bus carries a strobe of domain d: a step strobe carries the domain's number and the clock code, a stop
strobe 12 and the domain's number (R69, R110). -/
def busOf (d : DomainId) : Strobe → Bus
  | .step clock => { ckdom := BitVec.ofNat 4 d, ckcode := clock }
  | .stop => { ckdom := Config.stopMark, ckcode := BitVec.ofNat 8 d }

/-- The lock timer starts with the lock timeout as the configuration record stands at the strobe of a step (R69, R70);
a stop strobe starts none (R110). -/
def State.timerAtStrobe (s : State) (d : DomainId) (b : Strobe) : Option Nat :=
  match b with
  | .step _ =>
    if (s.domain d).step.isSome then some ((s.config d).lockCount.toNat * Config.clockUnit) else (s.domain d).lockTimer
  | .stop => (s.domain d).lockTimer

/-- STROBE_DRIVEN (R70). -/
def execStrobeDriven (d : DomainId) (s : State) : Host.Outcome State Fault Refusal :=
  match (s.domain d).strobe with
  | none => .next s
  | some b =>
    let t := s.setDomain d { s.domain d with strobe := none, lockTimer := s.timerAtStrobe d b }
    .next { t with bus := some (busOf d b) }

/-- A step ends at LOCK: a freezing step leaves the domain FROZEN running, and any other leaves it in STEADY to settle
or to plan again (R71, R120, R127, R129). -/
def State.lockTaken (s : State) (d : DomainId) (level : Level) : State :=
  let t := s.completeStep d level
  match (s.domain d).state with
  | .frozen => (t.finish d).fallbackCheck (t.railOf d)
  | .stepping => ((t.setDomain d { t.domain d with state := .steady }).plan d).finish d
  | .waking .clock => ((t.setDomain d { t.domain d with state := .steady }).plan d).finish d
  | _ => s

/-- LOCK_RISE: an edge taken with no step in flight, or while the strobe of the domain is still pending, leaves the
controller as it was (R70, R71, R74). -/
def execLockRise (d : DomainId) (s : State) : Host.Outcome State Fault Refusal :=
  match (s.domain d).step with
  | none => .next s
  | some level => if (s.domain d).strobe = none then .next (s.lockTaken d level) else .next s

/-- LOCK_TIMEOUT: the CLOCK fault of a domain in STEPPING or in the CLOCK stage of a wake (R73). -/
def execLockTimeout (d : DomainId) (s : State) : Host.Outcome State Fault Refusal :=
  let c := s.domain d
  if c.lockTimer.isSome ∧ (c.state = .stepping ∨ c.state = .waking .clock) then
    let t := (s.freezeAfterTimeout d .clock).holdRecords d
    .next ((t.raise ((supervisor, .clockFault d) :: t.heldNotices d)).finish d)
  else .next s

/-- FREEZING_LOCK_TIMEOUT: the domain becomes FROZEN gated, its cause stays RAIL, and CLOCK_FAULT(d) is raised (R127,
R129). -/
def execFreezingLockTimeout (d : DomainId) (s : State) : Host.Outcome State Fault Refusal :=
  let c := s.domain d
  if c.lockTimer.isSome ∧ c.state = .frozen ∧ c.step.isSome then
    let t := (s.freezeAfterTimeout d c.cause).raise [(supervisor, .clockFault d)]
    .next ((t.finish d).fallbackCheck (t.railOf d))
  else .next s

/-- ASSURED_CODE_CHANGE: a domain in RAISING steps to its latest target once the rail covers it, and one in the RAIL
stage of a wake opens its gate (R67, R83, Table 4-6). -/
def execAssuredCodeChange (d : DomainId) (s : State) : Host.Outcome State Fault Refusal :=
  if (s.domain d).assuredNews then
    let t := s.setDomain d { s.domain d with assuredNews := false }
    let c := t.domain d
    match c.state with
    | .raising =>
      .next (if t.assured (t.railOf d) ≥ t.code d c.target then (t.startStep d .stepping c.target).finish d else t)
    | .waking .rail => .next ((t.checkRailStage d).finish d)
    | _ => .next t
  else .next s

end Sys2Proof.Machine
end

