-- ==== Sys2Proof/Machine/NoticeEvents.lean ====
section
/-! DEFINITION. The notice unit: the arrival of a notice and TAKE-NOTICE (Chapter 8). -/

namespace Sys2Proof.Machine

/-- NOTICE_ARRIVAL: a notice on its way is placed in its receiver's pending set (R141, R142). -/
def execNoticeArrival (p : PortId) (n : Notice) (s : State) : Host.Outcome State Fault Refusal :=
  match takeRaised p n s.raised with
  | none => .next s
  | some rest => .next ({ s with raised := rest }.place (p, n))

/-- TAKE-NOTICE as the notice unit carries it out (R144). -/
def State.takeNoticeRequest (s : State) (p : PortId) : State × Reply :=
  let b := s.box p
  match b.pending with
  | n :: rest => (s.setBox p (b.become { b with pending := rest }), noticeReply rest.length n)
  | [] => if b.lost then (s.setBox p (b.become { b with lost := false }), overflowReply) else (s, .refuse .noNotice)

/-- TAKE-NOTICE (R144). -/
def execTakeNotice (p : PortId) (s : State) : Host.Outcome State Fault Refusal :=
  .next (s.serve p (.takeNotice p) fun t => t.takeNoticeRequest p)

end Sys2Proof.Machine
end

