-- ==== Sys2Proof/Machine/ParkEvents.lean ====
section
/-! DEFINITION. Parking, consent and waking: SET-PARK, SET-CONSENT, the quiet timer, the consent channel and the gate
settle timers (Chapter 6). -/

namespace Sys2Proof.Machine

/-- SET-PARK as it is carried out (R122): the settings are written, a domain in CONSENT whose park is disabled is
withdrawn, and the quiet timer follows its conditions. -/
def State.setParkRequest (s : State) (d : DomainId) (enable window policy : Byte) : State × Reply :=
  if enable > 1 ∨ policy > 1 ∨ window = 0 then (s, .refuse .badArgument)
  else
    let t := s.setConfig d { s.config d with
      park := enable = 1, window := window, policy := if policy = 1 then .park else .stay }
    let u := if (t.domain d).state = .consent ∧ enable = 0 then (t.withdraw d).finish d else t.updateQuiet d
    (u, .ok (byte (u.domain d).state.number) 0 0 0 0 0)

/-- SET-PARK (R122). -/
def execSetPark (d : DomainId) (enable window policy : Byte) (s : State) : Host.Outcome State Fault Refusal :=
  .next (s.serve supervisor (.setPark d enable window policy) fun t => t.setParkRequest d enable window policy)

/-- SET-CONSENT (R123). -/
def execSetConsent (count : Byte) (s : State) : Host.Outcome State Fault Refusal :=
  .next (s.serve supervisor (.setConsent count) fun t =>
    if count = 0 then (t, .refuse .badArgument) else ({ t with park := { t.park with timeout := count } }, .done))

/-- QUIET_TIMER_EXPIRY: the domain enters CONSENT and joins the queue (R79, R107, R108). -/
def execQuietTimerExpiry (d : DomainId) (s : State) : Host.Outcome State Fault Refusal :=
  let c := s.domain d
  if c.quietTimer.isSome ∧ c.state = .steady then
    let t := (s.setDomain d { c with state := .consent, settled := false, quietTimer := none }).unsettleRecords d
    .next ((t.joinConsent d).serveConsent.finish d)
  else .next s

/-- The answer, or the timeout, that ends the outstanding request: its domain acts on it, and the channel serves the
next once it is free (R108 to R112). After a timeout with both lines low the head of the queue is sent in this event
(R108), and a late edge then finds that request outstanding and answers it (R109), where R112 says that the late answer
finds none and is ignored (DESIGN CHOICE, notes/assumptions/30.md). -/
def State.answerConsent (s : State) (d : DomainId) (allow : Bool) : State :=
  let t := s.endRequest
  let u :=
    if (t.domain d).state = .consent then (if allow then t.granted d else t.denied d).finish d else t
  u.serveConsent

/-- CGRANT_RISE: an answer while a request is outstanding, and otherwise only a busy channel (R109, R110). -/
def execCgrantRise (s : State) : Host.Outcome State Fault Refusal :=
  if s.pins.cgrant then .next s
  else
    let t := { s with pins := { s.pins with cgrant := true } }
    match t.park.request with
    | none => .next t
    | some x => .next (t.answerConsent x.1 true)

/-- CDENY_RISE (R109, R111). -/
def execCdenyRise (s : State) : Host.Outcome State Fault Refusal :=
  if s.pins.cdeny then .next s
  else
    let t := { s with pins := { s.pins with cdeny := true } }
    match t.park.request with
    | none => .next t
    | some x => .next (t.answerConsent x.1 false)

/-- CONSENT_LINE_FALL: the fall may free the channel for the next domain (R108, R109). -/
def execConsentLineFall (line : AnswerLine) (s : State) : Host.Outcome State Fault Refusal :=
  match line with
  | .cgrant =>
    if s.pins.cgrant then .next { s with pins := { s.pins with cgrant := false } }.serveConsent else .next s
  | .cdeny =>
    if s.pins.cdeny then .next { s with pins := { s.pins with cdeny := false } }.serveConsent else .next s

/-- CONSENT_TIMEOUT: CONSENT_SILENT(d) goes to S and the silence policy, as it stands, decides (R112). The notice is
placed first in the event, ahead of the record notices of an evaluation that the policy brings about (R142;
notes/assumptions/10.md). -/
def execConsentTimeout (s : State) : Host.Outcome State Fault Refusal :=
  match s.park.request with
  | none => .next s
  | some x =>
    let t := s.place (supervisor, .consentSilent x.1)
    .next (t.answerConsent x.1 ((t.config x.1).policy = .park))

/-- GATE_SETTLE_EXPIRY: a domain in PARKING with a FLOOR record or a force wakes, and any other parks (R115, R116,
R118). -/
def execGateSettleExpiry (d : DomainId) (s : State) : Host.Outcome State Fault Refusal :=
  let c := s.domain d
  if c.gateTimer.isSome ∧ c.state = .parking then
    let t := s.setDomain d { c with gateTimer := none }
    .next ((if t.wanted d then t.beginWake d else t.enterParked d).finish d)
  else .next s

/-- WAKE_GATE_SETTLE_EXPIRY: a domain in the GATE stage of a wake enters the CLOCK stage (R119, R120). -/
def execWakeGateSettleExpiry (d : DomainId) (s : State) : Host.Outcome State Fault Refusal :=
  let c := s.domain d
  if c.gateTimer.isSome ∧ c.state = .waking .gate then
    .next (((s.setDomain d { c with gateTimer := none }).enterClock d).finish d)
  else .next s

end Sys2Proof.Machine
end

