-- ==== Sys2Proof/Decode.lean ====
section
/-! DEFINITION. Words and frames as commands. No row of spec/opcode_table.json gives bits, so no word spells a command.
A request frame does: its reading by the port's three checks (R154, R155) and the layout of its arguments
(Table 10-3), with the frame that a request is sent as. -/

namespace Sys2Proof

/-- The command that a word spells by the table's bits: no row gives any. -/
def decodeTableWord (_nbits _w : Nat) : Option Instr := none

/-! ### Taking a request (R154) -/

/-- What a port makes of a request frame: it answers it itself, or passes it to its owning block. -/
inductive Taking where
  | answered (r : Machine.Reply)
  | passed (i : Instr)
  deriving DecidableEq, Repr

/-- The commands any port may send (Table 9-3). -/
def anyPortCommands : List Byte := [0x00, 0x10, 0x11, 0x12, 0x18, 0x19, 0x20, 0x21, 0x22, 0x28]

/-- The supervisor-only commands (Table 9-3). -/
def supervisorCommands : List Byte :=
  [0x40, 0x41, 0x42, 0x43, 0x44, 0x45, 0x46, 0x47, 0x48, 0x50, 0x51, 0x52, 0x53, 0x54, 0x55, 0x58]

/-- An argument byte with a range (R154, check 3). -/
def argument (n : Nat) (b : Byte) : Option (Fin n) := if h : b.toNat < n then some ⟨b.toNat, h⟩ else none

def classArgument (b : Byte) : Option DemandClass :=
  if b = 0 then some .floor else if b = 1 then some .cap else none

/-- The arguments of FORCE: the level is read, and checked, only with set (R154). -/
def forceArgument (setOrClear level : Byte) : Option ForceArg :=
  if setOrClear = 0 then some .clear
  else if setOrClear = 1 then (argument 16 level).map .set
  else some (.other setOrClear)

/-- EVICT by its form (R154). -/
def evictArgument (form number : Byte) : Option Instr :=
  if form = 0 then (argument 64 number).map fun h => .evictHandleForm (.number h)
  else if form = 1 then (argument 9 number).map .evictPortForm
  else some (.evictHandleForm (.otherForm form))

/-- CLEAR-FAULT by its form (R132, R154). -/
def clearFaultArgument (form number : Byte) : Option Instr :=
  if form = 0 then (argument 4 number).map fun v => .clearFaultRailForm (.number v)
  else if form = 1 then (argument 12 number).map .clearFaultDomainForm
  else some (.clearFaultRailForm (.otherForm form))

/-- The request of a frame with a known command code other than NOP, where its range-checked arguments are in range
(Tables 9-3 and 10-3). Bytes that Table 10-3 gives no argument are not read (R161). -/
def Frame.arguments (f : Frame) (p : PortId) : Option Instr :=
  match f.b0.toNat with
  | 0x10 => do
    let d ← argument 12 f.b1
    let cls ← classArgument f.b2
    let level ← argument 16 f.b3
    return .file p d cls level (f.b4 ++ f.b5) f.b6
  | 0x11 => (argument 64 f.b1).map fun h => .renew p h (f.b2 ++ f.b3)
  | 0x12 => (argument 64 f.b1).map fun h => .release p h
  | 0x18 => (argument 64 f.b1).map fun h => .readDemand p h
  | 0x19 => (argument 64 f.b1).map fun h => .nextDemand p h
  | 0x20 => (argument 12 f.b1).map fun d => .readDomain p d f.b2
  | 0x21 => (argument 4 f.b1).map fun v => .readRail p v f.b2
  | 0x22 => (argument 12 f.b1).map fun d => .readPoint p d f.b2
  | 0x28 => some (.takeNotice p)
  | 0x40 => do
    let d ← argument 12 f.b1
    let level ← argument 16 f.b2
    return .setPoint d level f.b3 f.b4 f.b5
  | 0x41 => do
    let d ← argument 12 f.b1
    let rest ← argument 16 f.b2
    let safe ← argument 16 f.b3
    let low ← argument 16 f.b4
    let high ← argument 16 f.b5
    return .setLevels d rest safe low high
  | 0x42 => do
    let d ← argument 12 f.b1
    let level ← argument 16 f.b3
    return .setThrottle d f.b2 level
  | 0x43 => (argument 12 f.b1).map fun d => .setTimes d f.b2 f.b3
  | 0x44 => do
    let d ← argument 12 f.b1
    let v ← argument 4 f.b2
    return .map d v
  | 0x45 => (argument 12 f.b1).map fun d => .setPark d f.b2 f.b3 f.b4
  | 0x46 => some (.setConsent f.b1)
  | 0x47 => (argument 4 f.b1).map fun v => .setRail v f.b2 f.b3 f.b4 f.b5 f.b6
  | 0x48 => (argument 9 f.b1).map fun q => .setQuota q f.b2
  | 0x50 => some .openPhase
  | 0x51 => some .closePhase
  | 0x52 => do
    let d ← argument 12 f.b1
    let arg ← forceArgument f.b2 f.b3
    return .force d arg
  | 0x53 => evictArgument f.b1 f.b2
  | 0x54 => clearFaultArgument f.b1 f.b2
  | 0x55 => some .restartTables
  | 0x58 => (argument 9 f.b1).map .readPort
  | _ => none

/-- The port's checks, in their order, and NOP, which it answers itself (R154, R155). -/
def Frame.request (f : Frame) (p : PortId) : Taking :=
  if f.b0 ∉ anyPortCommands ∧ f.b0 ∉ supervisorCommands then .answered (.refuse .unknownCommand)
  else if f.b0 ∈ supervisorCommands ∧ p ≠ supervisor then .answered (.refuse .notPermitted)
  else if f.b0 = 0x00 then .answered .done
  else
    match f.arguments p with
    | some i => .passed i
    | none => .answered (.refuse .badArgument)

/-! ### Sending a request (Table 10-3) -/

/-- The two bytes of a 16-bit value, high byte first. -/
def highByte (x : BitVec 16) : Byte := x.extractLsb' 8 8
def lowByte (x : BitVec 16) : Byte := x.extractLsb' 0 8

/-- A number of a domain, level, rail, port or handle as an argument byte. -/
def numberByte {n : Nat} (i : Fin n) : Byte := BitVec.ofNat 8 i.val

def classByte : DemandClass → Byte
  | .floor => 0
  | .cap => 1

/-- The request frame that asks for a request row (Table 10-3), with the bytes the row does not use at 00h. -/
def Instr.requestFrame : Instr → Option Frame
  | .file _ d cls level lease tag =>
    some ⟨0x10, numberByte d, classByte cls, numberByte level, highByte lease, lowByte lease, tag, 0⟩
  | .renew _ h lease => some ⟨0x11, numberByte h, highByte lease, lowByte lease, 0, 0, 0, 0⟩
  | .release _ h => some ⟨0x12, numberByte h, 0, 0, 0, 0, 0, 0⟩
  | .readDemand _ h => some ⟨0x18, numberByte h, 0, 0, 0, 0, 0, 0⟩
  | .nextDemand _ h => some ⟨0x19, numberByte h, 0, 0, 0, 0, 0, 0⟩
  | .readDomain _ d page => some ⟨0x20, numberByte d, page, 0, 0, 0, 0, 0⟩
  | .readRail _ v page => some ⟨0x21, numberByte v, page, 0, 0, 0, 0, 0⟩
  | .readPoint _ d page => some ⟨0x22, numberByte d, page, 0, 0, 0, 0, 0⟩
  | .takeNotice _ => some ⟨0x28, 0, 0, 0, 0, 0, 0, 0⟩
  | .setPoint d level valid clock volt => some ⟨0x40, numberByte d, numberByte level, valid, clock, volt, 0, 0⟩
  | .setLevels d rest safe low high =>
    some ⟨0x41, numberByte d, numberByte rest, numberByte safe, numberByte low, numberByte high, 0, 0⟩
  | .setThrottle d line level => some ⟨0x42, numberByte d, line, numberByte level, 0, 0, 0, 0⟩
  | .setTimes d lock gate => some ⟨0x43, numberByte d, lock, gate, 0, 0, 0, 0⟩
  | .map d v => some ⟨0x44, numberByte d, numberByte v, 0, 0, 0, 0, 0⟩
  | .setPark d enable window policy => some ⟨0x45, numberByte d, enable, window, policy, 0, 0, 0⟩
  | .setConsent count => some ⟨0x46, count, 0, 0, 0, 0, 0, 0⟩
  | .setRail v min max fallback retention stepTime =>
    some ⟨0x47, numberByte v, min, max, fallback, retention, stepTime, 0⟩
  | .setQuota p quota => some ⟨0x48, numberByte p, quota, 0, 0, 0, 0, 0⟩
  | .openPhase => some ⟨0x50, 0, 0, 0, 0, 0, 0, 0⟩
  | .closePhase => some ⟨0x51, 0, 0, 0, 0, 0, 0, 0⟩
  | .force d .clear => some ⟨0x52, numberByte d, 0, 0, 0, 0, 0, 0⟩
  | .force d (.set level) => some ⟨0x52, numberByte d, 1, numberByte level, 0, 0, 0, 0⟩
  | .force d (.other b) => some ⟨0x52, numberByte d, b, 0, 0, 0, 0, 0⟩
  | .evictHandleForm (.number h) => some ⟨0x53, 0, numberByte h, 0, 0, 0, 0, 0⟩
  | .evictHandleForm (.otherForm form) => some ⟨0x53, form, 0, 0, 0, 0, 0, 0⟩
  | .evictPortForm p => some ⟨0x53, 1, numberByte p, 0, 0, 0, 0, 0⟩
  | .clearFaultRailForm (.number v) => some ⟨0x54, 0, numberByte v, 0, 0, 0, 0, 0⟩
  | .clearFaultRailForm (.otherForm form) => some ⟨0x54, form, 0, 0, 0, 0, 0, 0⟩
  | .clearFaultDomainForm d => some ⟨0x54, 1, numberByte d, 0, 0, 0, 0, 0⟩
  | .restartTables => some ⟨0x55, 0, 0, 0, 0, 0, 0, 0⟩
  | .readPort p => some ⟨0x58, numberByte p, 0, 0, 0, 0, 0, 0⟩
  | _ => none

end Sys2Proof
end

