-- ==== Sys2Proof/Machine/PortEvents.lean ====
section
/-! DEFINITION. The events of the request ports: pin reset, transactions, PRESENT edges and the loss of a port
(Chapter 9; sections 1.11, 4.11, 5.10). -/

namespace Sys2Proof.Machine

/-- PIN_RESET: every block takes its reset values, and presence follows the PRESENT inputs without a loss (R43, R81,
R105, R124, R138, R147, R160). The commands waiting and the count of free values are the model's own and stay. -/
def execPinReset (inputs : InputLevels) (s : State) : Host.Outcome State Fault Refusal :=
  .next { State.ofReset inputs with choices := s.choices, pending := s.pending }

/-- RESET_HOLD_END: the link becomes free, and the link controller chooses among the rails that wait (R89, R90). -/
def execResetHoldEnd (s : State) : Host.Outcome State Fault Refusal :=
  match s.link.resetHold with
  | none => .next s
  | some _ => .next { s with link := { s.link with resetHold := none } }.chooseRail

/-! ### Transactions -/

/-- What a transaction found at its first bit, with the ALERT of that moment, and how many of its eight bytes the port
shifted out before a fall of PRESENT, if one came (R149, R157). -/
structure Begun where
  view : View
  alert : Bool
  cut : Option Nat
  deriving DecidableEq, Repr

/-- The frame of a first bit, with its FRAMING and ALERT bits (R149); both are clear on an absent port (R158). -/
def View.frame (v : View) (alert : Bool) : Frame :=
  if v.present then
    match v.slot with
    | .empty => (marker .noAnswer).withFlags v.framing alert
    | .working => (marker .working).withFlags v.framing alert
    | .ready r => r.withFlags v.framing alert
  else marker .absent

/-- The frame that a transaction shifts out. -/
def Begun.frame (b : Begun) : Frame := b.view.frame b.alert

/-- Whether PRESENT has fallen at one of the last `back` changes of a port, whose views are given latest first. -/
def fallenSince : Nat → List View → Bool
  | back + 1, v :: w :: rest => (!v.present && w.present) || fallenSince back (w :: rest)
  | _, _ => false

/-- How the transaction on port p that is now released began. A first bit finds the port as it stood between two of its
changes since the transaction before, with an ALERT that it had there (R146, R149). That moment alone judges presence
(R158): an edge of PRESENT between the assertion of the select line and the first bit is as one before the transaction,
and for a transaction without a bit the operand names the moment that stands for its first bit (DESIGN CHOICE,
notes/assumptions/32.md). -/
def State.begun (s : State) (p : PortId) (start : FirstBit) : Option Begun :=
  let views := s.view p :: (s.port p).past
  match start with
  | .now => some { view := s.view p, alert := (s.view p).alert, cut := none }
  | .earlier back alert bytes =>
    match views[back]? with
    | none => none
    | some v =>
      if v.varied || alert = v.alert then
        some { view := v, alert := alert, cut := if fallenSince back views then some bytes else none }
      else none
  | .reset => none

/-- The level of SDO in SCK cycle k of a transaction: the frame's bit, 0 in a byte still to be shifted out when PRESENT
fell (R157), and not driven while another select line is asserted (R153). -/
def Begun.level (b : Begun) (shared : List Nat) (k : Nat) : Option Bool :=
  if k ∈ shared then none else some (k < 8 * b.cut.getD 8 && b.frame.bitAt k)

/-- The release of a transaction of `bits` bits: SDO has carried its frame, over the first 64 cycles at most (R149, R153,
R157). -/
def State.shiftOut (s : State) (p : PortId) (b : Begun) (bits : Nat) (shared : List Nat) : State :=
  { s.releasePort p with sdo := some { port := p, levels := (List.range (min bits 64)).map (b.level shared) } }

/-- The FRAMING flag of a port is set or cleared (R152). -/
def State.setFraming (s : State) (p : PortId) (framing : Bool) : State :=
  s.setPort p { s.port p with framing := framing }

/-- The slot is EMPTY: its answer has been delivered (R150). -/
def State.emptySlot (s : State) (p : PortId) : State := s.setPort p { s.port p with slot := .empty }

/-- The eight bytes shifted in are taken as a request: the port answers it, or passes it to its owning block and
waits (R150, R154, R156). -/
def State.receive (s : State) (p : PortId) (f : Frame) : State :=
  match f.request p with
  | .answered r => s.setPort p { s.port p with slot := .ready (r.frame f.b0) }
  | .passed i => s.setPort p { s.port p with slot := .working, sent := (s.port p).sent ++ [.request i true] }

/-- TRANSACTION: the release of a well-formed transaction, by what it shifted out (R149, R150, R152, R157, R158). Nothing
comes of one that a reset broke off (R153). A first bit that the port cannot have shown changes nothing. -/
def execTransaction (p : PortId) (start : FirstBit) (f : Frame) (s : State) : Host.Outcome State Fault Refusal :=
  if start = .reset then .next (s.releasePort p)
  else
    match s.begun p start with
    | none => .next s
    | some b =>
      let t := s.shiftOut p b 64 []
      if !b.view.present || b.cut.isSome then .next t
      else
        match b.view.slot with
        | .ready _ => .next (((t.setFraming p false).emptySlot p).receive p f)
        | .empty => .next ((t.setFraming p false).receive p f)
        | .working => .next (t.setFraming p false)

/-- MALFORMED_TRANSACTION: nothing is taken or delivered, and FRAMING is set, but on a port that the first bit found
absent or that was lost meanwhile (R149, R152, R153, R157, R158). -/
def execMalformedTransaction (p : PortId) (start : FirstBit) (bits : Nat) (overlap : Option (List Nat)) (s : State) :
    Host.Outcome State Fault Refusal :=
  if bits = 64 ∧ overlap = none then .next s
  else if start = .reset then .next (s.releasePort p)
  else
    match s.begun p start with
    | none => .next s
    | some b =>
      let t := s.shiftOut p b bits (overlap.getD [])
      .next (if !b.view.present || b.cut.isSome then t else t.setFraming p true)

/-! ### Presence -/

/-- The answer of a request that was on its way when its port was lost is not awaited (R159). -/
def Sent.abandon : Sent → Sent
  | .request i _ => .request i false
  | .loss => .loss

/-- PRESENT_FALL: the port is absent, its slot EMPTY and FRAMING clear, and the loss is handed on; a transaction in
progress is cut (R157). -/
def execPresentFall (x : AgentId) (s : State) : Host.Outcome State Fault Refusal :=
  let p := AgentId.port x
  let q := s.port p
  if q.present then
    .next (s.changePort p (s.view p) { q with
      slot := .empty
      framing := false
      present := false
      sent := q.sent.map Sent.abandon ++ [.loss] })
  else .next s

/-- PRESENT_RISE: the port is present, with its slot EMPTY and FRAMING clear (R158). Where the rise comes before the
demand table has taken the loss, the manual does not say what the port's pending set shows in between, and it keeps its
notices until PORT_LOSS empties it (DESIGN CHOICE, notes/assumptions/27.md). -/
def execPresentRise (x : AgentId) (s : State) : Host.Outcome State Fault Refusal :=
  let p := AgentId.port x
  let q := s.port p
  if q.present then .next s
  else .next (s.changePort p (s.view p) { q with slot := .empty, framing := false, present := true })

/-- PORT_LOSS: the records of Ax are retired without notices, its pending set and lost flag are emptied, with what is
on its way to them, and PORT_LOST(x) is raised to S (R24, R25, R147, R159). -/
def execPortLoss (x : AgentId) (s : State) : Host.Outcome State Fault Refusal :=
  let p := AgentId.port x
  match takeLoss (s.port p).sent with
  | none => .next s
  | some rest =>
    let t := s.setPort p { s.port p with sent := rest }
    let w := t.retireSelected State.retire (t.live.filter fun y => y.2.owner = p)
    let u := w.setBox p ((w.box p).become resetBox)
    .next ({ u with raised := raisedWithout p u.raised }.raise [(supervisor, .portLost x)])

end Sys2Proof.Machine
end

