-- ==== Sys2Proof/Machine/RailEvents.lean ====
section
/-! DEFINITION. The events of the rail controllers and of the regulator link, and CLEAR-FAULT (Chapters 5, 7). -/

namespace Sys2Proof.Machine

/-- LINK_SEND: the chosen rail's queued command goes out and becomes outstanding at try 1 (R90, R91, R162). -/
def execLinkSend (s : State) : Host.Outcome State Fault Refusal :=
  if s.linkBusy then .next s
  else
    match s.link.elected with
    | none => .next s
    | some v =>
      match (s.rail v).command with
      | .queued code =>
        let t := (s.setRail v { s.rail v with command := .outstanding code .one .awaitingReply }).sendFrame v code .one
        .next (State.noteAssured v s { t with link := { t.link with lastServed := v, elected := none } })
      | _ => .next s

/-- The settle deadline of a raise: (new code − confirmed code) × step time + 25 µs from the ACK (R95, R129). -/
def Rail.deadline (r : Rail) (code : Byte) : Nat :=
  (code.toNat - r.confirmed.toNat) * r.stepTime.toNat + Config.settleMargin

/-- An ACK is passed to the rail: a raise begins to settle, and a lower reads PG at once. Under FALLBACK a fallback
code equal to the confirmed code is a lower (R95, R97, R129). -/
def State.accepted (s : State) (v : RailId) (code : Byte) (tries : Try) : State :=
  let r := s.rail v
  if code > r.confirmed then s.setRail v { r with command := .outstanding code tries (.settling (r.deadline code)) }
  else s.outcomeByPg v code

/-- A try fails: the same code goes out at once as try 2, or the failure is passed to the rail (R93). -/
def State.tryFails (s : State) (t : Transfer) (cause : RailCause) : State :=
  match t.tries with
  | .one =>
    (s.setRail t.rail { s.rail t.rail with command := .outstanding t.code .two .awaitingReply }).sendFrame t.rail t.code .two
  | .two => s.commandFails t.rail cause

/-- REGULATOR_REPLY: a reply is taken only from the rail of the transfer and with its transfer bit (R92, R162); the
outcome of a disregarded transfer is dropped (R94). -/
def execRegulatorReply (reply : Byte) (pg : Bool) (s : State) : Host.Outcome State Fault Refusal :=
  match s.link.transfer, readReply reply with
  | some t, some (ack, transferBit, v) =>
    if v = t.rail ∧ transferBit = t.bit then
      let u := (s.samplePg t.rail pg).endTransfer
      let w :=
        if t.disregarded then u
        else if ack then u.accepted t.rail t.code t.tries
        else u.tryFails t .nak
      .next (State.noteAssured t.rail s w.chooseRail)
    else .next s
  | _, _ => .next s

/-- REPLY_TIMEOUT (R93, R94). -/
def execReplyTimeout (s : State) : Host.Outcome State Fault Refusal :=
  match s.link.transfer, s.link.replyTimer with
  | some t, some _ =>
    let u := s.endTransfer
    let w := if t.disregarded then u else u.tryFails t .noReply
    .next (State.noteAssured t.rail s w.chooseRail)
  | _, _ => .next s

/-- SETTLE_DEADLINE: PG decides the outcome of a raise (R96, R129). -/
def execSettleDeadline (v : RailId) (pg : Bool) (s : State) : Host.Outcome State Fault Refusal :=
  match (s.rail v).command with
  | .outstanding code _ (.settling _) => .next (State.noteAssured v s ((s.samplePg v pg).outcomeByPg v code))
  | _ => .next s

/-- A command of the rail is outstanding. -/
def Rail.hasOutstanding (r : Rail) : Bool :=
  match r.command with
  | .outstanding _ _ _ => true
  | _ => false

/-- PG_FALL: a fault of the rail where no command is outstanding, a second failure in HELD, and otherwise not taken
(R98, R130, R131). -/
def execPgFall (v : RailId) (s : State) : Host.Outcome State Fault Refusal :=
  let t := s.samplePg v false
  match (s.rail v).state with
  | .fallback => .next t
  | .shutdown => .next t
  | .held => .next (State.noteAssured v s (t.enterShutdown v .pgFall))
  | _ => .next (if (s.rail v).hasOutstanding then t else State.noteAssured v s (t.enterFallback v .pgFall))

/-! ### CLEAR-FAULT (R132 to R135) -/

/-- CLEAR-FAULT accepted for a rail in HELD: the rail and its FROZEN domains take it as one event, the domains in an
order that is free (R133, R134). -/
def State.clearRail (s : State) (v : RailId) : State × Reply :=
  let t := s.setRail v { s.rail v with state := .steady, cause := .none }
  let frozen := (t.mapped v).filter fun d => (t.domain d).state = .frozen
  let x := t.inFreeOrder frozen
  ((x.1.foldl State.releaseDomain x.2).reevaluate v, .ok (byte frozen.length) 0 0 0 0 0)

/-- CLEAR-FAULT in rail form (R132, Table 7-3); a form argument above 1 is refused (R132). -/
def execClearFaultRailForm (arg : FormArg RailId) (s : State) : Host.Outcome State Fault Refusal :=
  .next (s.serve supervisor (.clearFaultRailForm arg) fun t =>
    match arg with
    | .otherForm _ => (t, .refuse .badArgument)
    | .number v =>
      match (t.rail v).state with
      | .held => t.clearRail v
      | .fallback => (t, .refuse .faultBusy)
      | .shutdown => (t, .refuse .railShut)
      | _ => (t, .refuse .notFaulted))

/-- CLEAR-FAULT in domain form (R132, R135, Table 7-4). -/
def execClearFaultDomainForm (d : DomainId) (s : State) : Host.Outcome State Fault Refusal :=
  .next (s.serve supervisor (.clearFaultDomainForm d) fun t =>
    let c := t.domain d
    if c.state = .frozen ∧ c.cause = .clock ∧ !(t.rail (t.railOf d)).faulted then
      ((t.releaseDomain d).reevaluate (t.railOf d), .ok 1 0 0 0 0 0)
    else if c.state = .off then (t, .refuse .railShut)
    else (t, .refuse .notFaulted))

end Sys2Proof.Machine
end

