-- ==== Sys2Proof/Machine/SetupRequests.lean ====
section
/-! DEFINITION. The requests that write the operating point tables, the domain configuration and the rails'
settings, and the reads of domains, rails and points (Chapters 3 to 5). -/

namespace Sys2Proof.Machine

/-! ### SET-POINT (R47 to R50) -/

/-- An entry in use (R47). -/
def State.inUse (s : State) (d : DomainId) (l : Level) : Bool :=
  let c := s.domain d
  c.current = l || c.target = l || c.step = some l || (s.config d).rest = l || (s.config d).safe = l

/-- A code outside a window [min, max]. -/
def outsideWindow (min max code : Byte) : Bool := code < min || max < code

/-- The checks of SET-POINT (Table 3-3), and the write with the resolution that follows (R49). -/
def State.setPointRequest (s : State) (d : DomainId) (l : Level) (valid clock volt : Byte) : State × Reply :=
  let r := s.rail (s.railOf d)
  if valid > 1 then (s, .refuse .badArgument)
  else if s.inUse d l then (s, .refuse .inUse)
  else if l = 0 ∧ valid = 0 then (s, .refuse .badArgument)
  else if valid = 1 ∧ outsideWindow r.min r.max volt then (s, .refuse .outOfWindow)
  else
    let t := (s.setPoint d l { valid := valid = 1, clock := clock, volt := volt }).reresolve d
    (t, targetReply (t.domain d))

/-- SET-POINT (R48). -/
def execSetPoint (d : DomainId) (l : Level) (valid clock volt : Byte) (s : State) : Host.Outcome State Fault Refusal :=
  .next (s.serve supervisor (.setPoint d l valid clock volt) fun t => t.setPointRequest d l valid clock volt)

/-! ### SET-LEVELS, SET-THROTTLE, SET-TIMES -/

/-- The checks of SET-LEVELS (R51), and the write with the resolution that follows (R52). -/
def State.setLevelsRequest (s : State) (d : DomainId) (rest safe low high : Level) : State × Reply :=
  if !(s.point d rest).valid || !(s.point d safe).valid || low > high then (s, .refuse .badArgument)
  else if s.code d safe > (s.rail (s.railOf d)).fallback then (s, .refuse .outOfWindow)
  else
    let c := s.config d
    let t := (s.setConfig d { c with rest := rest, safe := safe, floorLimit := low, ceilingLimit := high }).reresolve d
    (t, targetReply (t.domain d))

/-- SET-LEVELS (R51). -/
def execSetLevels (d : DomainId) (rest safe floorLimit ceilingLimit : Level) (s : State) :
    Host.Outcome State Fault Refusal :=
  .next (s.serve supervisor (.setLevels d rest safe floorLimit ceilingLimit) fun t =>
    t.setLevelsRequest d rest safe floorLimit ceilingLimit)

/-- The line argument of SET-THROTTLE: 0 none, 1 THR0, 2 THR1, and nothing above (R53). -/
def lineArgument (b : Byte) : Option (Option ThrottleLine) :=
  if b = 0 then some none
  else if b = 1 then some (some .thr0)
  else if b = 2 then some (some .thr1)
  else none

/-- The present level of the line followed, deasserted for none (R31, R53). -/
def State.lineLevel (s : State) : Option ThrottleLine → Bool
  | none => false
  | some line => s.thr line

/-- SET-THROTTLE (R53). -/
def execSetThrottle (d : DomainId) (line : Byte) (level : Level) (s : State) : Host.Outcome State Fault Refusal :=
  .next (s.serve supervisor (.setThrottle d line level) fun t =>
    match lineArgument line with
    | none => (t, .refuse .badArgument)
    | some followed =>
      let u := t.setConfig d { t.config d with throttleLine := followed, throttleLevel := level }
      let w := (u.setDomain d { u.domain d with throttled := u.lineLevel followed }).reresolve d
      (w, targetReply (w.domain d)))

/-- SET-TIMES (R54). -/
def execSetTimes (d : DomainId) (lock gate : Byte) (s : State) : Host.Outcome State Fault Refusal :=
  .next (s.serve supervisor (.setTimes d lock gate) fun t =>
    if lock = 0 ∨ gate = 0 then (t, .refuse .badArgument)
    else (t.setConfig d { t.config d with lockCount := lock, gateCount := gate }, .done))

/-! ### MAP (R55 to R57) -/

/-- A valid entry of a domain lies outside a window (R55, R101). -/
def State.entryOutside (s : State) (d : DomainId) (min max : Byte) : Bool :=
  allLevels.any fun l => (s.point d l).valid && outsideWindow min max (s.code d l)

/-- Check 6 of MAP: the new rail does not deliver code(L0), or is going below it (R55). -/
def Rail.belowCode (r : Rail) (code : Byte) : Bool :=
  r.confirmed < code ||
    match r.command with
    | .outstanding c _ _ => c < code
    | _ => false

/-- Both rails of a MAP re-evaluate. Their order decides at most which of them the link controller chooses, and there
it is free (R56, R57, R90; DESIGN CHOICE, notes/assumptions/7.md). -/
def State.reevaluateBoth (s : State) (old new : RailId) : State :=
  let a := (s.reevaluate old).reevaluate new
  let b := (s.reevaluate new).reevaluate old
  if a.link = b.link then a
  else if Config.oldRailFirst s.choices then { a with choices := s.choices + 1 }
  else { b with choices := s.choices + 1 }

/-- The checks of MAP (Table 3-4), and the change of map (R56). -/
def State.mapRequest (s : State) (d : DomainId) (v : RailId) : State × Reply :=
  let c := s.domain d
  let r := s.rail v
  let old := s.railOf d
  if s.phase = .run then (s, .refuse .wrongPhase)
  else if c.state ≠ .steady ∨ c.current ≠ 0 ∨ c.target ≠ 0 then (s, .refuse .inUse)
  else if r.state = .fallback ∨ r.state = .held then (s, .refuse .faultBusy)
  else if r.state = .shutdown then (s, .refuse .railShut)
  else if s.entryOutside d r.min r.max ∨ s.code d (s.config d).safe > r.fallback then (s, .refuse .outOfWindow)
  else if r.belowCode (s.code d 0) then (s, .refuse .outOfWindow)
  else ((s.setConfig d { s.config d with rail := v }).reevaluateBoth old v, .ok (byte old) (byte v) 0 0 0 0)

/-- MAP (R55). -/
def execMap (d : DomainId) (v : RailId) (s : State) : Host.Outcome State Fault Refusal :=
  .next (s.serve supervisor (.map d v) fun t => t.mapRequest d v)

/-! ### SET-RAIL (R101, R102) -/

/-- A command outstanding whose code lies outside a window (R101, check 7). -/
def Rail.outstandingOutside (r : Rail) (min max : Byte) : Bool :=
  match r.command with
  | .outstanding code _ _ => outsideWindow min max code
  | _ => false

/-- The checks of SET-RAIL (Table 5-6), and the write with the re-evaluation that follows (R102). -/
def State.setRailRequest (s : State) (v : RailId) (min max fallback retention stepTime : Byte) : State × Reply :=
  let r := s.rail v
  if min > max ∨ stepTime = 0 then (s, .refuse .badArgument)
  else if r.state = .fallback ∨ r.state = .held then (s, .refuse .faultBusy)
  else if r.state = .shutdown then (s, .refuse .railShut)
  else if outsideWindow min max fallback ∨ outsideWindow min max retention then (s, .refuse .outOfWindow)
  else if (s.mapped v).any fun d => s.entryOutside d min max then (s, .refuse .outOfWindow)
  else if (s.mapped v).any fun d => decide (fallback < s.code d (s.config d).safe) then (s, .refuse .outOfWindow)
  else if r.outstandingOutside min max then (s, .refuse .outOfWindow)
  else
    let t := (s.setRail v { r with
      min := min, max := max, fallback := fallback, retention := retention, stepTime := stepTime }).reevaluate v
    (t, .ok (t.rail v).confirmed (t.rail v).required 0 0 0 0)

/-- SET-RAIL (R101). -/
def execSetRail (v : RailId) (min max fallback retention stepTime : Byte) (s : State) :
    Host.Outcome State Fault Refusal :=
  .next (s.serve supervisor (.setRail v min max fallback retention stepTime) fun t =>
    t.setRailRequest v min max fallback retention stepTime)

/-! ### FORCE (R35) -/

/-- FORCE (R35): the force level is set or cleared and the domain re-resolves; a set-or-clear argument above 1 is
refused (R161). -/
def execForce (d : DomainId) (arg : ForceArg) (s : State) : Host.Outcome State Fault Refusal :=
  .next (s.serve supervisor (.force d arg) fun t =>
    match arg with
    | .other _ => (t, .refuse .badArgument)
    | .clear =>
      let u := (t.setDomain d { t.domain d with force := none }).reresolve d
      (u, forceReply (u.domain d))
    | .set level =>
      let u := (t.setDomain d { t.domain d with force := some level }).reresolve d
      (u, forceReply (u.domain d)))

/-! ### Reads -/

/-- READ-DOMAIN (R80). -/
def execReadDomain (p : PortId) (d : DomainId) (page : Byte) (s : State) : Host.Outcome State Fault Refusal :=
  .next (s.serve p (.readDomain p d page) fun t =>
    if page = 0 then (t, domainPage0 (t.domain d))
    else if page = 1 then (t, domainPage1 (t.countOn d .floor) (t.countOn d .cap) (t.domain d).quietTimer)
    else (t, .refuse .badArgument))

/-- READ-RAIL (R104). -/
def execReadRail (p : PortId) (v : RailId) (page : Byte) (s : State) : Host.Outcome State Fault Refusal :=
  .next (s.serve p (.readRail p v page) fun t =>
    if page = 0 then (t, railPage0 (t.rail v) (t.assured v))
    else if page = 1 then (t, railPage1 (t.rail v) (t.mapped v).length)
    else (t, .refuse .badArgument))

/-- READ-POINT (R60). -/
def execReadPoint (p : PortId) (d : DomainId) (page : Byte) (s : State) : Host.Outcome State Fault Refusal :=
  .next (s.serve p (.readPoint p d page) fun t =>
    match argument 16 page with
    | some l => (t, pointPage (t.point d l))
    | none =>
      if page = 16 then (t, levelsPage (t.config d))
      else if page = 17 then (t, parkPage (t.config d))
      else if page = 18 then (t, timesPage (t.config d))
      else (t, .refuse .badArgument))

end Sys2Proof.Machine
end

