-- ==== Sys2Proof/Machine/TableRequests.lean ====
section
/-! DEFINITION. The requests and events of the demand table (Chapter 1). -/

namespace Sys2Proof.Machine

/-! ### FILE (R10 to R12) -/

/-- The status of a record filed or replaced now: HELD on a FROZEN or OFF domain (R11, R12). -/
def State.startStatus (s : State) (d : DomainId) : Status :=
  if (s.domain d).state = .frozen || (s.domain d).state = .off then .held else .pending

/-- A created record is reported; a FLOOR on a PARKED domain is taken by the controller in the same event (R9, R116). -/
def State.reportCreated (s : State) (d : DomainId) (cls : DemandClass) (h : Handle) : State :=
  if cls = .floor && (s.domain d).state = .parked then s.reresolve d else s.report d h .created

/-- Creation of a record at a free handle (R11). -/
def State.createRecord (s : State) (p : PortId) (d : DomainId) (cls : DemandClass) (level : Level)
    (lease : BitVec 16) (tag : Byte) (h : Handle) : State :=
  let r : Record :=
    { owner := p, domain := d, cls := cls, level := level, tag := tag, lease := leaseOf lease, generation := 1,
      acknowledged := 0, lastSettled := none, status := s.startStatus d }
  (s.setRecord h (some r)).reportCreated d cls h

/-- A record as its replacement leaves it (R12). -/
def Record.replaced (r : Record) (level : Level) (lease : BitVec 16) (tag : Byte) (status : Status) : Record :=
  let g := nextGeneration r.generation
  { r with
    level := level
    tag := tag
    lease := leaseOf lease
    generation := g
    acknowledged := if g = r.acknowledged then 0 else r.acknowledged
    lastSettled := none
    status := status }

/-- FILE as the demand table carries it out (R10). -/
def State.fileRequest (s : State) (p : PortId) (d : DomainId) (cls : DemandClass) (level : Level)
    (lease : BitVec 16) (tag : Byte) : State × Reply :=
  if s.phase = .setup then (s, .refuse .wrongPhase)
  else
    match s.findKey p d cls with
    | some (h, r) =>
      let r' := r.replaced level lease tag (s.startStatus d)
      (((s.setRecord h (some r')).dropStanding p h).report d h .replaced, .ok (byte h) r'.generation 0 0 0 0)
    | none =>
      if s.quota p ≤ s.liveCount p then (s, .refuse .quotaReached)
      else
        match s.lowestFree with
        | none => (s, .refuse .tableFull)
        | some h => (s.createRecord p d cls level lease tag h, .ok (byte h) 1 0 0 0 0)

/-- FILE (R10). -/
def execFile (p : PortId) (d : DomainId) (cls : DemandClass) (level : Level) (lease : BitVec 16) (tag : Byte)
    (s : State) : Host.Outcome State Fault Refusal :=
  .next (s.serve p (.file p d cls level lease tag) fun t => t.fileRequest p d cls level lease tag)

/-! ### RENEW, RELEASE and the reads -/

/-- A request on a record that its owner alone may make: NO_HANDLE, then NOT_OWNER (R14, R15, Table 1-2). -/
def State.onOwnRecord (s : State) (p : PortId) (h : Handle) (body : Record → State × Reply) : State × Reply :=
  match s.record h with
  | none => (s, .refuse .noHandle)
  | some r => if r.owner = p then body r else (s, .refuse .notOwner)

/-- RENEW (R14). -/
def execRenew (p : PortId) (h : Handle) (lease : BitVec 16) (s : State) : Host.Outcome State Fault Refusal :=
  .next (s.serve p (.renew p h lease) fun t => t.onOwnRecord p h fun r =>
    (t.setRecord h (some { r with lease := leaseOf lease }), .ok r.tag r.generation 0 0 0 0))

/-- RELEASE (R15). -/
def execRelease (p : PortId) (h : Handle) (s : State) : Host.Outcome State Fault Refusal :=
  .next (s.serve p (.release p h) fun t => t.onOwnRecord p h fun r =>
    ((t.retire h).report r.domain h .retired, .ok r.tag r.generation 0 0 0 0))

/-- READ-DEMAND (R18). -/
def execReadDemand (p : PortId) (h : Handle) (s : State) : Host.Outcome State Fault Refusal :=
  .next (s.serve p (.readDemand p h) fun t =>
    match t.record h with
    | none => (t, .refuse .noHandle)
    | some r => (t, if p = supervisor ∨ r.owner = p then demandReply r else .refuse .notOwner))

/-- NEXT-DEMAND (R19). -/
def execNextDemand (p : PortId) (cursor : Handle) (s : State) : Host.Outcome State Fault Refusal :=
  .next (s.serve p (.nextDemand p cursor) fun t =>
    match t.live.find? fun x => cursor ≤ x.1 && (p = supervisor || x.2.owner = p) with
    | none => (t, .refuse .noneLeft)
    | some (h, r) => (t, .ok (byte h) (byte r.domain) (byte r.cls.number) r.tag 0 0))

/-- READ-PORT (R20). -/
def execReadPort (p : PortId) (s : State) : Host.Outcome State Fault Refusal :=
  .next (s.serve supervisor (.readPort p) fun t =>
    (t, .ok (byte (t.liveCount p)) (byte (t.quota p)) (bit (t.port p).present) (byte (t.box p).pending.length) 0 0))

/-! ### Quotas and phase -/

/-- SET-QUOTA (R8). -/
def execSetQuota (p : PortId) (quota : Byte) (s : State) : Host.Outcome State Fault Refusal :=
  .next (s.serve supervisor (.setQuota p quota) fun t =>
    if quota.toNat > Config.quotaLimit then (t, .refuse .badArgument)
    else if quota.toNat < t.liveCount p then (t, .refuse .quotaInUse)
    else (t.setQuota p quota.toNat, .ok (byte (t.liveCount p)) 0 0 0 0 0))

/-- OPEN (R6). -/
def execOpenPhase (s : State) : Host.Outcome State Fault Refusal :=
  .next (s.serve supervisor .openPhase fun t => ({ t with phase := .run }, .done))

/-- CLOSE (R7). -/
def execClosePhase (s : State) : Host.Outcome State Fault Refusal :=
  .next (s.serve supervisor .closePhase fun t =>
    if t.phase = .run ∧ t.live ≠ [] then (t, .refuse .stillLive) else ({ t with phase := .setup }, .done))

/-! ### Removal by the supervisor -/

/-- EVICT in handle form (R21); a form argument above 1 is refused (R154). -/
def execEvictHandleForm (arg : FormArg Handle) (s : State) : Host.Outcome State Fault Refusal :=
  .next (s.serve supervisor (.evictHandleForm arg) fun t =>
    match arg with
    | .otherForm _ => (t, .refuse .badArgument)
    | .number h =>
      match t.record h with
      | none => (t, .refuse .noHandle)
      | some r =>
        (((t.retireNotified h).raise [(r.owner, .evicted h r.tag)]).report r.domain h .retired,
          .ok (byte r.owner) 1 0 0 0 0))

/-- EVICT in port form (R22). -/
def execEvictPortForm (p : PortId) (s : State) : Host.Outcome State Fault Refusal :=
  .next (s.serve supervisor (.evictPortForm p) fun t =>
    let gone := t.live.filter fun x => x.2.owner = p
    ((t.retireSelected State.retireNotified gone).raise (gone.map fun x => (p, .evicted x.1 x.2.tag)), .ok 0 (byte gone.length) 0 0 0 0))

/-- The pending sets and lost flags of the agent ports are emptied; that of S is kept (R23, R147). -/
def State.emptyAgentBoxes (s : State) : State :=
  { s with boxes := Vector.ofFn fun p => if p = supervisor then s.box p else (s.box p).become resetBox }

/-- RESTART-TABLES (R23). -/
def execRestartTables (s : State) : Host.Outcome State Fault Refusal :=
  .next (s.serve supervisor .restartTables fun t =>
    ((t.retireSelected State.retire t.live).emptyAgentBoxes, .ok (byte t.live.length) 0 0 0 0 0))

/-! ### Leases (R13, R17) -/

/-- A lease at a millisecond boundary: lease remaining falls by one, and from 1 its expiry comes due. A live record
never shows 0 (R13; DEDUCED, notes/assumptions/5.md). -/
def Lease.elapse (t : Lease) : Lease :=
  if t.remaining ≤ 1 then { t with due := true } else { t with remaining := t.remaining - 1 }

/-- MILLISECOND_BOUNDARY (R13). -/
def execMillisecondBoundary (s : State) : Host.Outcome State Fault Refusal :=
  .next (s.mapRecords fun r => { r with lease := r.lease.map Lease.elapse })

/-- LEASE_EXPIRY: the record whose lease has run out is retired and EXPIRED is raised to its owner (R16, R17). -/
def execLeaseExpiry (h : Handle) (s : State) : Host.Outcome State Fault Refusal :=
  match s.record h with
  | none => .next s
  | some r =>
    match r.lease with
    | some { remaining := _, due := true } =>
      .next (((s.retireNotified h).raise [(r.owner, .expired h r.tag)]).report r.domain h .retired)
    | _ => .next s

end Sys2Proof.Machine
end

