-- ==== Sys2Proof/Machine/Dispatch.lean ====
section
/-! DEFINITION. The meaning of each command: one arm per row of spec/opcode_table.json, in its order. -/

namespace Sys2Proof.Machine

def exec (i : Instr) (s : State) : Host.Outcome State Fault Refusal :=
  match i with
  | .pinReset inputs => Sys2Proof.Machine.execPinReset inputs s
  | .resetHoldEnd => Sys2Proof.Machine.execResetHoldEnd s
  | .transaction p start f => Sys2Proof.Machine.execTransaction p start f s
  | .malformedTransaction p start bits overlap => Sys2Proof.Machine.execMalformedTransaction p start bits overlap s
  | .presentFall x => Sys2Proof.Machine.execPresentFall x s
  | .portLoss x => Sys2Proof.Machine.execPortLoss x s
  | .presentRise x => Sys2Proof.Machine.execPresentRise x s
  | .file p d cls level lease tag => Sys2Proof.Machine.execFile p d cls level lease tag s
  | .renew p h lease => Sys2Proof.Machine.execRenew p h lease s
  | .release p h => Sys2Proof.Machine.execRelease p h s
  | .readDemand p h => Sys2Proof.Machine.execReadDemand p h s
  | .nextDemand p cursor => Sys2Proof.Machine.execNextDemand p cursor s
  | .readDomain p d page => Sys2Proof.Machine.execReadDomain p d page s
  | .readRail p v page => Sys2Proof.Machine.execReadRail p v page s
  | .readPoint p d page => Sys2Proof.Machine.execReadPoint p d page s
  | .takeNotice p => Sys2Proof.Machine.execTakeNotice p s
  | .setPoint d level valid clock volt => Sys2Proof.Machine.execSetPoint d level valid clock volt s
  | .setLevels d rest safe low high => Sys2Proof.Machine.execSetLevels d rest safe low high s
  | .setThrottle d line level => Sys2Proof.Machine.execSetThrottle d line level s
  | .setTimes d lock gate => Sys2Proof.Machine.execSetTimes d lock gate s
  | .map d v => Sys2Proof.Machine.execMap d v s
  | .setPark d enable window policy => Sys2Proof.Machine.execSetPark d enable window policy s
  | .setConsent count => Sys2Proof.Machine.execSetConsent count s
  | .setRail v min max fallback retention stepTime => Sys2Proof.Machine.execSetRail v min max fallback retention stepTime s
  | .setQuota p quota => Sys2Proof.Machine.execSetQuota p quota s
  | .openPhase => Sys2Proof.Machine.execOpenPhase s
  | .closePhase => Sys2Proof.Machine.execClosePhase s
  | .force d arg => Sys2Proof.Machine.execForce d arg s
  | .evictHandleForm arg => Sys2Proof.Machine.execEvictHandleForm arg s
  | .evictPortForm p => Sys2Proof.Machine.execEvictPortForm p s
  | .clearFaultRailForm arg => Sys2Proof.Machine.execClearFaultRailForm arg s
  | .clearFaultDomainForm d => Sys2Proof.Machine.execClearFaultDomainForm d s
  | .restartTables => Sys2Proof.Machine.execRestartTables s
  | .readPort p => Sys2Proof.Machine.execReadPort p s
  | .leaseExpiry h => Sys2Proof.Machine.execLeaseExpiry h s
  | .recordReport d => Sys2Proof.Machine.execRecordReport d s
  | .throttleEdge line rising => Sys2Proof.Machine.execThrottleEdge line rising s
  | .strobeDriven d => Sys2Proof.Machine.execStrobeDriven d s
  | .lockRise d => Sys2Proof.Machine.execLockRise d s
  | .lockTimeout d => Sys2Proof.Machine.execLockTimeout d s
  | .freezingLockTimeout d => Sys2Proof.Machine.execFreezingLockTimeout d s
  | .quietTimerExpiry d => Sys2Proof.Machine.execQuietTimerExpiry d s
  | .cgrantRise => Sys2Proof.Machine.execCgrantRise s
  | .cdenyRise => Sys2Proof.Machine.execCdenyRise s
  | .consentLineFall line => Sys2Proof.Machine.execConsentLineFall line s
  | .consentTimeout => Sys2Proof.Machine.execConsentTimeout s
  | .gateSettleExpiry d => Sys2Proof.Machine.execGateSettleExpiry d s
  | .wakeGateSettleExpiry d => Sys2Proof.Machine.execWakeGateSettleExpiry d s
  | .assuredCodeChange d => Sys2Proof.Machine.execAssuredCodeChange d s
  | .linkSend => Sys2Proof.Machine.execLinkSend s
  | .regulatorReply reply pg => Sys2Proof.Machine.execRegulatorReply reply pg s
  | .replyTimeout => Sys2Proof.Machine.execReplyTimeout s
  | .settleDeadline v pg => Sys2Proof.Machine.execSettleDeadline v pg s
  | .pgFall v => Sys2Proof.Machine.execPgFall v s
  | .noticeArrival p n => Sys2Proof.Machine.execNoticeArrival p n s
  | .millisecondBoundary => Sys2Proof.Machine.execMillisecondBoundary s

end Sys2Proof.Machine
end

