-- ==== Sys2Proof/Safety.lean ====
section
/-! DEFINITION. What holds of a sound TH12: the relations between its blocks that the manual states of every moment,
as conditions on one state. Claims about runs are stated in these terms. -/

namespace Sys2Proof.Machine

/-! ### The demand table -/

/-- No two live records share owner, domain and class (R2). -/
def State.KeysUnique (s : State) : Prop :=
  ∀ h k : Handle, ∀ r ∈ s.record h, ∀ q ∈ s.record k,
    r.owner = q.owner → r.domain = q.domain → r.cls = q.cls → h = k

/-- In SETUP the table holds no live record (R5). -/
def State.SetupEmpty (s : State) : Prop := s.phase = .setup → ∀ h : Handle, s.record h = none

/-- No port owns more live records than its quota, and no quota is above 64 (R4). -/
def State.QuotasKept (s : State) : Prop := ∀ p : PortId, s.liveCount p ≤ s.quota p ∧ s.quota p ≤ 64

/-- The lease of a live record shows 1 to 65535 ms (R1, R13). -/
def State.LeasesShown (s : State) : Prop :=
  ∀ h : Handle, ∀ r ∈ s.record h, ∀ t ∈ r.lease, 1 ≤ t.remaining ∧ t.remaining ≤ 65535

/-- A generation is 1 to 255 (R1), and that of an IN_FORCE record is acknowledged (R42). -/
def State.GenerationsSound (s : State) : Prop :=
  ∀ h : Handle, ∀ r ∈ s.record h, r.generation ≠ 0 ∧ (r.status = .inForce → r.acknowledged = r.generation)

/-- A record is HELD exactly on a FROZEN or OFF domain (R11, R39, R40), and IN_FORCE or CLAMPED only on a settled or
PARKED one (R37, R38, R40). -/
def State.StatusesSound (s : State) : Prop :=
  ∀ h : Handle, ∀ r ∈ s.record h,
    (r.status = .held ↔ ((s.domain r.domain).state = .frozen ∨ (s.domain r.domain).state = .off)) ∧
    (r.status = .inForce ∨ r.status = .clamped →
      (s.domain r.domain).state = .steady ∨ (s.domain r.domain).state = .parked)

/-! ### The notice unit -/

/-- A pending set holds at most 16 notices, never two of the same kind and subject, and never both IN_FORCE and
CLAMPED for one handle (R140). -/
def Box.Sound (b : Box) : Prop :=
  b.pending.length ≤ 16 ∧ b.pending.Pairwise fun m n => n.same m = false ∧ n.opposes m = false

def State.BoxesSound (s : State) : Prop := ∀ p : PortId, (s.box p).Sound

/-! ### Operating point tables and windows -/

/-- L0 is valid in every table, and so are the rest, safe, current, target and step levels of its domain; the floor
limit is not above the ceiling limit (R44, R46, R75, R30). -/
def State.TablesSound (s : State) : Prop :=
  ∀ d : DomainId,
    (s.point d 0).valid = true ∧ (s.point d (s.config d).rest).valid = true ∧
    (s.point d (s.config d).safe).valid = true ∧ (s.point d (s.domain d).current).valid = true ∧
    (s.point d (s.domain d).target).valid = true ∧
    (∀ l ∈ (s.domain d).step, (s.point d l).valid = true) ∧
    (s.config d).floorLimit ≤ (s.config d).ceilingLimit

/-- A code inside a rail's window. -/
def Rail.inside (r : Rail) (code : Byte) : Prop := r.min ≤ code ∧ code ≤ r.max

/-- The settings of every rail lie as Table 5-1 gives them, and the two relations of section 3.6: every valid entry
lies in the window of its domain's rail, and no safe level's code is above the fallback code. -/
def State.WindowsSound (s : State) : Prop :=
  (∀ v : RailId, (s.rail v).min ≤ (s.rail v).max ∧ (s.rail v).inside (s.rail v).fallback ∧
    (s.rail v).inside (s.rail v).retention ∧ (s.rail v).stepTime ≠ 0) ∧
  (∀ d : DomainId, ∀ l : Level, (s.point d l).valid = true → (s.rail (s.railOf d)).inside (s.code d l)) ∧
  (∀ d : DomainId, s.code d (s.config d).safe ≤ (s.rail (s.railOf d)).fallback)

/-! ### Domain controllers -/

/-- The clock of a domain runs (Table 4-2). -/
def Domain.running (c : Domain) : Bool :=
  c.state = .steady || c.state = .raising || c.state = .stepping || c.state = .consent ||
    (c.state = .frozen && !c.gated)

/-- Whether GATE is closed in a state, where the state alone decides it (R76). -/
def DomainState.gate : DomainState → Option Bool
  | .steady => some false
  | .raising => some false
  | .stepping => some false
  | .consent => some false
  | .parking => some true
  | .parked => some true
  | .waking .rail => some true
  | .waking .gate => some false
  | .waking .clock => some false
  | .frozen => none
  | .off => some true

/-- The items of a domain controller agree with its state: the settled flag (R36, R66), GATE (R76), the step in flight
with its strobe or its lock timer (R62, R69, R70), the gate settle timer (R62) and the fault cause (R62). -/
def Domain.MovesSound (c : Domain) : Prop :=
  (c.settled = true ↔ c.state = .steady) ∧
  (c.state = .steady → c.current = c.target) ∧
  (∀ g ∈ c.state.gate, c.gated = g) ∧
  (c.state = .stepping ∨ c.state = .waking .clock → c.step ≠ none) ∧
  (c.step ≠ none → c.state = .stepping ∨ c.state = .waking .clock ∨ (c.state = .frozen ∧ c.gated = false)) ∧
  (c.lockTimer ≠ none → c.step ≠ none ∧ c.strobe = none) ∧
  (c.step ≠ none → c.lockTimer ≠ none ∨ ∃ clock, c.strobe = some (.step clock)) ∧
  (c.gateTimer ≠ none ↔ (c.state = .parking ∨ c.state = .waking .gate)) ∧
  (c.cause ≠ .none ↔ (c.state = .frozen ∨ c.state = .off)) ∧
  (c.state = .off → c.cause = .rail) ∧
  (c.cause = .clock → c.gated = true)

/-- Every domain controller agrees with its state, and a quiet timer runs only on a settled domain with park enabled
and no force (R78). -/
def State.MovesSound (s : State) : Prop :=
  ∀ d : DomainId, (s.domain d).MovesSound ∧
    ((s.domain d).quietTimer ≠ none →
      (s.domain d).settled = true ∧ (s.config d).park = true ∧ (s.domain d).force = none)

/-- A PARKED domain has no live FLOOR record and no force level (R116). -/
def State.ParkedSound (s : State) : Prop :=
  ∀ d : DomainId, (s.domain d).state = .parked → s.hasFloor d = false ∧ (s.domain d).force = none

/-! ### Faults -/

/-- Rail faults and the domains on the rail (R126, R129 to R132, R100): a rail in FALLBACK or HELD has its domains
FROZEN by it, one in SHUTDOWN has them OFF, and no other rail has such domains; the fallback command waits for every
domain to be frozen in place; and a frozen running domain runs within the fallback code. -/
def State.FaultsSound (s : State) : Prop :=
  (∀ d : DomainId,
    ((s.rail (s.railOf d)).state = .fallback ∨ (s.rail (s.railOf d)).state = .held ↔
      (s.domain d).state = .frozen ∧ (s.domain d).cause = .rail) ∧
    ((s.rail (s.railOf d)).state = .shutdown ↔ (s.domain d).state = .off) ∧
    ((s.rail (s.railOf d)).state = .held ∨
      ((s.rail (s.railOf d)).state = .fallback ∧ (s.rail (s.railOf d)).command ≠ .none) →
        (s.domain d).inPlace = true) ∧
    ((s.domain d).state = .frozen → (s.domain d).gated = false →
      s.code d ((s.domain d).step.getD (s.domain d).current) ≤ (s.rail (s.railOf d)).fallback)) ∧
  (∀ v : RailId,
    ((s.rail v).cause ≠ .none ↔ (s.rail v).faulted = true) ∧
    ((s.rail v).state = .held → (s.rail v).confirmed = (s.rail v).fallback ∧ (s.rail v).command = .none) ∧
    ((s.rail v).state = .shutdown → (s.rail v).command = .none) ∧
    ((s.rail v).state = .fallback → ∀ c ∈ (s.rail v).command.code?, c = (s.rail v).fallback))

/-! ### The consent channel -/

/-- The consent queue and the outstanding request hold exactly the domains in CONSENT, each once (R106, R107). -/
def State.ConsentSound (s : State) : Prop :=
  s.park.queue.Nodup ∧
  (∀ x ∈ s.park.request, x.1 ∉ s.park.queue) ∧
  (∀ d : DomainId, (s.domain d).state = .consent ↔ d ∈ s.park.queue ∨ s.park.request.map Prod.fst = some d)

/-! ### The regulator link -/

/-- A transfer and its reply timer go together; a transfer whose outcome is wanted is the AWAITING_REPLY command of its
rail, and there is no other; a rail is chosen exactly while the link is free with a rail waiting (R89 to R94). -/
def State.LinkSound (s : State) : Prop :=
  (s.link.transfer = none ↔ s.link.replyTimer = none) ∧
  (s.link.resetHold ≠ none → s.link.transfer = none) ∧
  (∀ t ∈ s.link.transfer, t.bit = s.link.bit ∧
    (t.disregarded = false → (s.rail t.rail).command = .outstanding t.code t.tries .awaitingReply)) ∧
  (∀ v : RailId, ∀ code tries, (s.rail v).command = .outstanding code tries .awaitingReply →
    ∃ t ∈ s.link.transfer, t.rail = v ∧ t.disregarded = false) ∧
  (∀ v ∈ s.link.elected, s.waiting v = true ∧ s.linkBusy = false) ∧
  (s.linkBusy = false → s.link.elected = none → ∀ v : RailId, s.waiting v = false)

/-! ### Rail controllers -/

/-- Every need is that of Table 4-3, and every required code that of Table 5-2 (R64, R65, R85, R86). -/
def State.NeedsSound (s : State) : Prop :=
  (∀ d : DomainId, (s.domain d).need = s.needOf d) ∧ (∀ v : RailId, (s.rail v).required = s.requiredCode v)

/-- A rail outside fault handling obeys the command rule and Table 5-3 (R87, R88). -/
def State.RailsSound (s : State) : Prop :=
  ∀ v : RailId, (s.rail v).faulted = false →
    ((s.rail v).command = .none → (s.rail v).confirmed = (s.rail v).required) ∧
    (∀ code, (s.rail v).command = .queued code → code = (s.rail v).required ∧ code ≠ (s.rail v).confirmed) ∧
    (∀ code tries phase, (s.rail v).command = .outstanding code tries phase → code ≠ (s.rail v).confirmed) ∧
    (s.rail v).state = (s.rail v).ordinaryState (s.allParked v)

/-- Every queued or outstanding code lies in its rail's window (R91). -/
def State.CommandsInside (s : State) : Prop :=
  ∀ v : RailId, ∀ code ∈ (s.rail v).command.code?, (s.rail v).inside code

/-! ### The covering relation -/

/-- The covering relation of the TH12 (R65): except while its rail is in FALLBACK or SHUTDOWN, a domain whose clock
runs has its current level, and during a step its step level, covered by the confirmed code, and a domain in the CLOCK
stage of a wake its step level. -/
def State.Covered (s : State) : Prop :=
  ∀ d : DomainId,
    (s.rail (s.railOf d)).state ≠ .fallback → (s.rail (s.railOf d)).state ≠ .shutdown →
      ((s.domain d).running = true →
        s.code d (s.domain d).current ≤ (s.rail (s.railOf d)).confirmed ∧
        ∀ l ∈ (s.domain d).step, s.code d l ≤ (s.rail (s.railOf d)).confirmed) ∧
      ((s.domain d).state = .waking .clock →
        ∀ l ∈ (s.domain d).step, s.code d l ≤ (s.rail (s.railOf d)).confirmed)

/-- What keeps the covering relation (R65, R66, remark to R64): outside fault handling the assured code covers those
levels, and a domain in RAISING waits for a code above that of its current level. -/
def State.AssuredCovers (s : State) : Prop :=
  ∀ d : DomainId, (s.rail (s.railOf d)).faulted = false →
    ((s.domain d).running = true →
      s.code d (s.domain d).current ≤ s.assured (s.railOf d) ∧
      ∀ l ∈ (s.domain d).step, s.code d l ≤ s.assured (s.railOf d)) ∧
    ((s.domain d).state = .waking .clock → ∀ l ∈ (s.domain d).step, s.code d l ≤ s.assured (s.railOf d)) ∧
    ((s.domain d).state = .raising → s.code d (s.domain d).current < s.code d (s.domain d).target)

/-! ### All of it -/

/-- The relations between the blocks, which hold together. -/
structure State.Sound (s : State) : Prop where
  tables : s.TablesSound
  windows : s.WindowsSound
  moves : s.MovesSound
  parked : s.ParkedSound
  faults : s.FaultsSound
  consent : s.ConsentSound
  link : s.LinkSound
  needs : s.NeedsSound
  rails : s.RailsSound
  commands : s.CommandsInside
  assured : s.AssuredCovers
  covered : s.Covered

/-! ### The words of the statements -/

/-- Request `i` is the next on its way from port `p`, with `rest` behind it, and the port's slot waits for its answer
(R151, R156). -/
def State.Awaits (s : State) (p : PortId) (i : Instr) (rest : List Sent) : Prop :=
  (s.port p).sent = .request i true :: rest ∧ (s.port p).slot = .working

/-- The state in which that request has left the way and the slot holds its answer; all else is as it was in `t`, where
`s` is the state before the event. What first bits can have found until the event is noted
(notes/assumptions/14.md). -/
def State.answered (t : State) (p : PortId) (rest : List Sent) (f : Frame) (s : State := t) : State :=
  t.setPort p { t.port p with
    slot := .ready f, sent := rest, past := s.view p :: (t.port p).past, since := (t.box p).turns }

/-- The answer frame of a refusal (R161). -/
def refusal (code command : Byte) : Frame := ⟨code, command, 0, 0, 0, 0, 0, 0⟩

/-- How many bytes behind the command code a frame's command reads (Table 10-3; R154 for FORCE, EVICT and
CLEAR-FAULT). -/
def argumentBytes (f : Frame) : Nat :=
  match f.b0.toNat with
  | 0x10 => 6
  | 0x11 => 3
  | 0x12 => 1
  | 0x18 => 1
  | 0x19 => 1
  | 0x20 => 2
  | 0x21 => 2
  | 0x22 => 2
  | 0x40 => 5
  | 0x41 => 5
  | 0x42 => 3
  | 0x43 => 3
  | 0x44 => 2
  | 0x45 => 4
  | 0x46 => 1
  | 0x47 => 6
  | 0x48 => 2
  | 0x52 => if f.b2 = 1 then 3 else 2
  | 0x53 => if f.b1.toNat ≤ 1 then 2 else 1
  | 0x54 => if f.b1.toNat ≤ 1 then 2 else 1
  | 0x58 => 1
  | _ => 0

/-- `g` is the frame that a first bit shifts out at a port which it finds as `v` has it, with this ALERT (R149, R158,
Tables 10-1 and 10-2). -/
def View.Shows (v : View) (alert : Bool) (g : Frame) : Prop :=
  g = if v.present then
      match v.slot with
      | .ready r => r.withFlags v.framing alert
      | .empty => Frame.withFlags ⟨0x01, 0, 0, 0, 0, 0, 0, 0⟩ v.framing alert
      | .working => Frame.withFlags ⟨0x02, 0, 0, 0, 0, 0, 0, 0⟩ v.framing alert
    else ⟨0x03, 0, 0, 0, 0, 0, 0, 0⟩

/-- The transaction on port p that is now released found the port at its first bit as `v` has it, and shifts out frame
`g`: whole, or, where `cut` by a fall of PRESENT since, `bytes` bytes of it (R146, R149, R157; the operand and the views of
the port are the model's form, notes/assumptions/14.md). -/
def State.Began (s : State) (p : PortId) (v : View) (g : Frame) (bytes : Nat) (cut : Bool) : FirstBit → Prop
  | .now => v = s.view p ∧ v.Shows v.alert g ∧ bytes = 8 ∧ cut = false
  | .earlier back alert n =>
    let views := s.view p :: (s.port p).past
    views[back]? = some v ∧ (v.varied = true ∨ alert = v.alert) ∧ v.Shows alert g ∧
      (cut = true ↔ ∃ k < back, ∃ w x, views[k]? = some w ∧ views[k + 1]? = some x ∧
        w.present = false ∧ x.present = true) ∧
      bytes = if cut then n else 8
  | .reset => False

/-- What SDO carries in a transaction of port p of so many bits: frame `g`, most significant bit of each byte first, 0 in
every byte from number `bytes` on, and nothing in the cycles shared with another select line (R149, R153, R157). -/
def carried (p : PortId) (g : Frame) (bytes bits : Nat) (shared : List Nat) : Shifted where
  port := p
  levels := List.ofFn fun k : Fin (min bits 64) =>
    if k.val ∈ shared then none
    else if k.val / 8 < bytes then some ((g.byteAt (k.val / 8)).getLsbD (7 - k.val % 8))
    else some false

/-- A pending set once the record at handle h of its port is retired with a notice: the removal that is due with the
notice is noted (R142; notes/assumptions/10.md). -/
def Box.noting (b : Box) (h : Handle) : Box :=
  { b with leaving := if h ∈ b.leaving then b.leaving else b.leaving ++ [h] }

/-- The removal that an arrival makes before its notice is placed: of the IN_FORCE and CLAMPED of the notice's handle,
where it is due (R142). -/
def Box.relieved (b : Box) (n : Notice) : Box where
  pending := b.pending.filter fun m => ¬∃ h ∈ b.leaving, n.handle = some h ∧ m.standing = some h
  lost := b.lost
  leaving := b.leaving.filter fun h => n.handle ≠ some h
  turns := b.turns

/-- No live record has this key (R2). -/
def State.NoKey (s : State) (p : PortId) (d : DomainId) (cls : DemandClass) : Prop :=
  ∀ h : Handle, ∀ r ∈ s.record h, ¬(r.owner = p ∧ r.domain = d ∧ r.cls = cls)

/-- `h` is the lowest handle that no live record holds (R3). -/
def State.LowestFree (s : State) (h : Handle) : Prop := s.record h = none ∧ ∀ k < h, s.record k ≠ none

/-- What an event of one domain controller, taken with its rail and the park controller, leaves as it was: the other
domains, the other rails, an outstanding command of its own, the records of other domains and what is filed of its own,
the pending sets of the ports without a record on it, and every other block (R9, R65, R88, R114). -/
structure State.DomainFrame (d : DomainId) (s t : State) : Prop where
  phase : t.phase = s.phase
  quotas : t.quotas = s.quotas
  reports : t.reports = s.reports
  setups : t.setups = s.setups
  raised : t.raised = s.raised
  ports : t.ports = s.ports
  sdo : t.sdo = s.sdo
  pins : t.pins = s.pins
  bus : t.bus = s.bus
  choices : t.choices = s.choices
  pending : t.pending = s.pending
  domains : ∀ e, e ≠ d → t.domain e = s.domain e
  inputs : (t.domain d).force = (s.domain d).force ∧ (t.domain d).throttled = (s.domain d).throttled
  rails : ∀ v, v ≠ s.railOf d → t.rail v = s.rail v
  rail : ∃ required command state,
    t.rail (s.railOf d) = { s.rail (s.railOf d) with required := required, command := command, state := state }
  outstanding : ∀ code tries phase, (s.rail (s.railOf d)).command = .outstanding code tries phase →
    (t.rail (s.railOf d)).command = .outstanding code tries phase
  link : ∃ elected, t.link = { s.link with elected := elected }
  timeout : t.park.timeout = s.park.timeout
  freed : ∀ h, s.record h = none → t.record h = none
  filed : ∀ h, ∀ r ∈ s.record h, ∃ status acknowledged lastSettled,
    t.record h = some { r with status := status, acknowledged := acknowledged, lastSettled := lastSettled }
  others : ∀ h, ∀ r ∈ s.record h, r.domain ≠ d → t.record h = some r
  boxes : ∀ p, (∀ h, ∀ r ∈ s.record h, r.domain = d → r.owner ≠ p) → t.box p = s.box p

/-- A record as an evaluation on a settled domain leaves it (R37, R42, Table 2-3). -/
def Record.evaluatedAt (r : Record) (current : Level) : Record :=
  if (r.cls = .floor ∧ r.level ≤ current) ∨ (r.cls = .cap ∧ current ≤ r.level) then
    { r with status := .inForce, acknowledged := r.generation, lastSettled := some .inForce }
  else { r with status := .clamped, lastSettled := some .clamped }

/-- A record as an evaluation on a PARKED domain leaves it (R38). -/
def Record.evaluatedParked (r : Record) : Record :=
  if r.cls = .cap then { r with status := .inForce, acknowledged := r.generation, lastSettled := some .inForce } else r

/-- A record of a domain that has stopped being settled (R40). -/
def Record.unsettled (r : Record) : Record :=
  if r.status = .inForce ∨ r.status = .clamped then { r with status := .pending } else r

/-- The status of a record once its domain has moved on from its state in `s` without being evaluated: PENDING, unless it
was HELD and the domain does not leave FROZEN (R40). -/
def State.leftStatus (s : State) (r : Record) : Status :=
  if r.status = .held ∧ (s.domain r.domain).state ≠ .frozen then .held else .pending

/-- The notices to port p of an evaluation of domain d settled at `current`, in ascending order of handle: IN_FORCE or
CLAMPED where the last settled status differs (R37, R41, R142). -/
def State.settledNotices (s : State) (d : DomainId) (current : Level) (p : PortId) : List Notice :=
  s.live.filterMap fun x =>
    if x.2.domain = d ∧ x.2.owner = p ∧ (x.2.evaluatedAt current).lastSettled ≠ x.2.lastSettled then
      some (if (x.2.evaluatedAt current).status = .inForce then
        Notice.inForce x.1 x.2.tag x.2.generation current
      else Notice.clamped x.1 x.2.tag x.2.generation current)
    else none

/-- The notices to port p of an evaluation of domain d in PARKED, in ascending order of handle: IN_FORCE with the current
level for each CAP whose last settled status was another (R38, R41, R142). -/
def State.parkedNotices (s : State) (d : DomainId) (p : PortId) : List Notice :=
  s.live.filterMap fun x =>
    if x.2.domain = d ∧ x.2.owner = p ∧ x.2.cls = .cap ∧ x.2.lastSettled ≠ some .inForce then
      some (Notice.inForce x.1 x.2.tag x.2.generation (s.domain d).current)
    else none

/-- The notices to port p of a plan of domain d: those of its evaluation where it settles, and else none (R41, R66). -/
def State.planNotices (s : State) (d : DomainId) (current target : Level) (p : PortId) : List Notice :=
  if target = current then s.settledNotices d current p else []

/-- The notices to port p of the release of a FROZEN domain: those of its plan where its clock runs, those of PARKED where
it parks, and none where it wakes (R41, R134). -/
def State.releaseNotices (s : State) (d : DomainId) (p : PortId) : List Notice :=
  if (s.domain d).gated = false then s.planNotices d (s.domain d).current (s.resolution d).1 p
  else if s.wanted d = false ∧ (s.config d).park = true then s.parkedNotices d p
  else []

/-- Every port has taken its own of these notices, in their order, and nothing else (R141, R142). -/
def State.Told (s t : State) (news : PortId → List Notice) : Prop :=
  ∀ p, t.box p = (news p).foldl Box.place (s.box p)

/-- The quiet timer of domain d in `t`, where it held what it has in `s`: it runs exactly on a settled domain with park
enabled, no FLOOR record and no force, from the full window where it did not run before (R78). -/
def State.QuietTimerFollows (s t : State) (d : DomainId) : Prop :=
  (t.domain d).quietTimer =
    if (t.domain d).settled = true ∧ (t.config d).park = true ∧ t.hasFloor d = false ∧ (t.domain d).force = none then
      some ((s.domain d).quietTimer.getD ((t.config d).window.toNat * 1000))
    else none

/-- The park controller once the domains of `out` are withdrawn from it: they have left the queue, where the others keep
their order, and the outstanding request; and where the channel is free then, the head of the queue is sent with the
consent timeout as it stands (R108, R114). -/
def State.parkWithout (s : State) (out : DomainId → Prop) [DecidablePred out] : Park :=
  let queue := s.park.queue.filter fun e => ¬out e
  let request := s.park.request.filter fun x => ¬out x.1
  match queue with
  | [] => { s.park with queue := [], request := request }
  | e :: rest =>
    if request = none ∧ s.pins.cgrant = false ∧ s.pins.cdeny = false then
      { s.park with
        queue := rest, request := some (e, s.park.timeout.toNat * 100), cdom := BitVec.ofNat 4 e }
    else { s.park with queue := e :: rest, request := request }

/-- A rail in FALLBACK without a command has its fallback code queued once every domain mapped to it is frozen in place,
and no command until then (R129). -/
def State.FallbackFollows (s t : State) (v : RailId) : Prop :=
  (s.rail v).state = .fallback → (t.rail v).state = .fallback ∧
    ((s.rail v).command = .none → (t.rail v).command =
      if (∀ e, s.railOf e = v → (t.domain e).inPlace = true) then .queued (s.rail v).fallback else .none)

/-- Domain d of `t` is where a plan from STEADY puts it, seen from `s`: settled with its records evaluated, in RAISING,
or in STEPPING with its strobe due (R66, Table 4-4); its quiet timer follows (R78). `current` and `target` are the levels
of the plan. -/
def State.PlansTo (s t : State) (d : DomainId) (current target : Level) : Prop :=
  s.QuietTimerFollows t d ∧
  (target = current →
    (t.domain d).state = .steady ∧ (t.domain d).settled = true ∧ (t.domain d).need = some (s.code d current) ∧
    ∀ h, ∀ r ∈ s.record h, r.domain = d → t.record h = some (r.evaluatedAt current)) ∧
  (target ≠ current → s.assured (s.railOf d) < s.code d target →
    (t.domain d).state = .raising ∧ (t.domain d).settled = false ∧ (t.domain d).need = some (s.code d target) ∧
    ∀ h, ∀ r ∈ s.record h, r.domain = d → ∃ q, t.record h = some q ∧ q.status = s.leftStatus r) ∧
  (target ≠ current → s.code d target ≤ s.assured (s.railOf d) →
    (t.domain d).state = .stepping ∧ (t.domain d).settled = false ∧ (t.domain d).step = some target ∧
    (t.domain d).strobe = some (.step (s.point d target).clock) ∧ (t.domain d).lockTimer = none ∧
    (t.domain d).need = some (higherCode (s.code d current) (s.code d target)) ∧
    ∀ h, ∀ r ∈ s.record h, r.domain = d → ∃ q, t.record h = some q ∧ q.status = s.leftStatus r)

/-- Domain d of `t` is in the RAIL stage of a wake, or, where its rail covers the target, in its GATE stage with its gate
settle time running; no quiet timer runs (R78, R118, R119). -/
def State.WakesTo (s t : State) (d : DomainId) (target : Level) : Prop :=
  (t.domain d).settled = false ∧ (t.domain d).quietTimer = none ∧ (t.domain d).current = (s.domain d).current ∧
  (t.domain d).need = some (s.code d target) ∧
  (s.assured (s.railOf d) < s.code d target →
    (t.domain d).state = .waking .rail ∧ (t.domain d).gated = true) ∧
  (s.code d target ≤ s.assured (s.railOf d) →
    (t.domain d).state = .waking .gate ∧ (t.domain d).gated = false ∧
    (t.domain d).gateTimer = some ((s.config d).gateCount.toNat * 10))

/-- Domain d of `t` is frozen by a fault of its rail, as Table 7-2 gives it for the state it has in `s` (R126, R127). -/
def State.FrozenFrom (s t : State) (d : DomainId) : Prop :=
  let c := s.domain d
  let safe := (s.config d).safe
  (t.domain d).state = .frozen ∧ (t.domain d).cause = .rail ∧ (t.domain d).settled = false ∧
  (t.domain d).quietTimer = none ∧ (t.domain d).gateTimer = none ∧ (t.domain d).current = c.current ∧
  (t.domain d).target = c.target ∧ (t.domain d).source = c.source ∧ (t.domain d).force = c.force ∧
  (t.domain d).throttled = c.throttled ∧
  (c.state = .steady ∨ c.state = .raising ∨ c.state = .consent → c.current = safe →
    (t.domain d).gated = false ∧ (t.domain d).step = none ∧ (t.domain d).need = some (s.code d safe)) ∧
  ((c.state = .steady ∨ c.state = .raising ∨ c.state = .consent) ∧ c.current ≠ safe ∨ c.state = .stepping ∨
      c.state = .waking .clock →
    (t.domain d).gated = false ∧ (t.domain d).step = some safe ∧ (t.domain d).lockTimer = none ∧
    (t.domain d).strobe = some (.step (s.point d safe).clock) ∧ (t.domain d).need = some (s.code d safe)) ∧
  (c.state = .waking .gate ∨ c.state = .waking .rail ∨ c.state = .parking ∨ c.state = .parked →
    (t.domain d).gated = true ∧ (t.domain d).step = none ∧ (t.domain d).need = none) ∧
  (c.state = .frozen → (t.domain d).gated = c.gated ∧ (t.domain d).step = c.step)

end Sys2Proof.Machine
end

