-- ==== Sys2Proof/WellFormed.lean ====
section
/-! DEFINITION. Which commands are of the form the manual gives their row. Most bounds are in the types of the
operands; what is left is checked here. -/

namespace Sys2Proof

/-- The port that may receive a notice of this kind: `none` where any port may (R139, Table 8-1). -/
def Notice.onlyTo : Notice → Option PortId
  | .inForce _ _ _ _ => none
  | .clamped _ _ _ _ => none
  | .expired _ _ => none
  | .evicted _ _ => none
  | .domainHeld _ => none
  | .railFault _ => some supervisor
  | .railShutdown _ => some supervisor
  | .clockFault _ => some supervisor
  | .portLost _ => some supervisor
  | .consentSilent _ => some supervisor

/-- A transaction has shifted out at most its eight bytes when PRESENT falls. -/
def FirstBit.wf : FirstBit → Bool
  | .now => true
  | .earlier _ _ bytes => bytes ≤ 8
  | .reset => true

/-- The arguments a row's command may carry. -/
def Instr.wf : Instr → Bool
  | .transaction _ start _ => start.wf
  | .malformedTransaction _ start bits overlap => start.wf && (bits ≠ 64 || overlap.isSome)
  | .force _ (.other b) => b > 1
  | .evictHandleForm (.otherForm b) => b > 1
  | .clearFaultRailForm (.otherForm b) => b > 1
  | .noticeArrival p n => n.onlyTo = none || n.onlyTo = some p
  | _ => true

end Sys2Proof
end

