-- ==== Sys2Proof/Certificates/Slice0/Obligations.lean ====
section
/-! DEFINITION. The statements about the TH12 that are put to proof, in the order of OBLIGATIONS.json. -/

open Sys2Proof Sys2Proof.Machine

/-! ### Steps, commands and frames -/

/-- A step takes the command at the front of the queue and runs it with the queue's rest. -/
def Obligations.StepRunsFrontCommand : Prop :=
  ∀ (s : State) (c : Instr) (rest : List Instr), s.pending = c :: rest →
    step s = exec c { s with pending := rest }

/-- MODEL'S CHOICE (notes/assumptions/2.md). On an empty queue one µs passes: every running timer counts down, and one
that has run down stays at 0; nothing else changes. -/
def Obligations.IdleStepCountsTimersDown : Prop :=
  ∀ s : State, s.pending = [] → ∃ t : State, step s = .next t ∧
    (∀ d, t.domain d = { s.domain d with
      lockTimer := (s.domain d).lockTimer.map (· - 1)
      gateTimer := (s.domain d).gateTimer.map (· - 1)
      quietTimer := (s.domain d).quietTimer.map (· - 1) }) ∧
    (∀ v, (∀ code tries n, (s.rail v).command = .outstanding code tries (.settling n) →
        t.rail v = { s.rail v with command := .outstanding code tries (.settling (n - 1)) }) ∧
      ((∀ code tries n, (s.rail v).command ≠ .outstanding code tries (.settling n)) → t.rail v = s.rail v)) ∧
    t.link = { s.link with replyTimer := s.link.replyTimer.map (· - 1), resetHold := s.link.resetHold.map (· - 1) } ∧
    t.park = { s.park with request := s.park.request.map fun x => (x.1, x.2 - 1) } ∧
    t = { s with domains := t.domains, rails := t.rails, link := t.link, park := t.park }

/-- No command stops the part, and none touches the commands that wait. That a command naming an event the part cannot
have also answers a next state (notes/assumptions/3.md) and that the queue is not the part's own
(notes/assumptions/20.md) are the model's choices. -/
def Obligations.EveryCommandEndsInANextState : Prop :=
  ∀ (c : Instr) (s : State), ∃ t : State, exec c s = .next t ∧ t.pending = s.pending

/-- The request frame of a well-formed request, sent on its port, is taken as that very request, and a frame that a
port passes on is a well-formed request of that port with the frame's command code (R154, R155, Table 10-3). -/
def Obligations.RequestFramesRoundTrip : Prop :=
  (∀ (i : Instr) (p : PortId), i.wf = true → i.requester = some p →
     ∃ f, i.requestFrame = some f ∧ f.request p = .passed i) ∧
  (∀ (f : Frame) (p : PortId) (i : Instr), f.request p = .passed i →
     i.wf = true ∧ i.requester = some p ∧ i.commandCode = f.b0 ∧
     ∃ g, i.requestFrame = some g ∧ g.b0 = f.b0)

/-- The three checks of a port, and NOP: what is refused, and that any other frame is passed on as the request of its
arguments, whatever the bytes hold that Table 10-3 does not give its command (R154, R155, R161). -/
def Obligations.PortChecksInOrder : Prop :=
  ∀ (f : Frame) (p : PortId),
    (f.b0 ∉ anyPortCommands → f.b0 ∉ supervisorCommands → f.request p = .answered (.refuse .unknownCommand)) ∧
    (f.b0 ∈ supervisorCommands → p ≠ supervisor → f.request p = .answered (.refuse .notPermitted)) ∧
    (f.b0 = 0x00 → f.request p = .answered (.ok 0 0 0 0 0 0)) ∧
    (f.b0 = 0x10 → f.b1.toNat > 11 ∨ f.b2.toNat > 1 ∨ f.b3.toNat > 15 →
      f.request p = .answered (.refuse .badArgument)) ∧
    (f.b0 ∈ [0x11, 0x12, 0x18, 0x19] → f.b1.toNat > 63 → f.request p = .answered (.refuse .badArgument)) ∧
    (f.b0 ∈ [0x20, 0x22] → f.b1.toNat > 11 → f.request p = .answered (.refuse .badArgument)) ∧
    (f.b0 = 0x21 → f.b1.toNat > 3 → f.request p = .answered (.refuse .badArgument)) ∧
    (p = supervisor →
      (f.b0 ∈ [0x40, 0x41, 0x42, 0x43, 0x44, 0x45, 0x52] → f.b1.toNat > 11 →
        f.request p = .answered (.refuse .badArgument)) ∧
      (f.b0 = 0x40 → f.b2.toNat > 15 → f.request p = .answered (.refuse .badArgument)) ∧
      (f.b0 = 0x41 → f.b2.toNat > 15 ∨ f.b3.toNat > 15 ∨ f.b4.toNat > 15 ∨ f.b5.toNat > 15 →
        f.request p = .answered (.refuse .badArgument)) ∧
      (f.b0 = 0x42 → f.b3.toNat > 15 → f.request p = .answered (.refuse .badArgument)) ∧
      (f.b0 = 0x44 → f.b2.toNat > 3 → f.request p = .answered (.refuse .badArgument)) ∧
      (f.b0 = 0x52 → f.b2 = 1 → f.b3.toNat > 15 → f.request p = .answered (.refuse .badArgument)) ∧
      (f.b0 = 0x52 → f.b2 ≠ 1 → f.b1.toNat ≤ 11 → ∃ i, f.request p = .passed i) ∧
      (f.b0 = 0x47 → f.b1.toNat > 3 → f.request p = .answered (.refuse .badArgument)) ∧
      (f.b0 ∈ [0x48, 0x58] → f.b1.toNat > 8 → f.request p = .answered (.refuse .badArgument)) ∧
      (f.b0 = 0x53 → (f.b1 = 0 ∧ f.b2.toNat > 63) ∨ (f.b1 = 1 ∧ f.b2.toNat > 8) →
        f.request p = .answered (.refuse .badArgument)) ∧
      (f.b0 ∈ [0x53, 0x54] → f.b1.toNat > 1 → ∃ i, f.request p = .passed i) ∧
      (f.b0 = 0x54 → (f.b1 = 0 ∧ f.b2.toNat > 3) ∨ (f.b1 = 1 ∧ f.b2.toNat > 11) →
        f.request p = .answered (.refuse .badArgument))) ∧
    (f.b0 = 0x10 ∧ f.b1.toNat ≤ 11 ∧ f.b2.toNat ≤ 1 ∧ f.b3.toNat ≤ 15 ∨
     f.b0 ∈ [0x11, 0x12, 0x18, 0x19] ∧ f.b1.toNat ≤ 63 ∨
     f.b0 ∈ [0x20, 0x22] ∧ f.b1.toNat ≤ 11 ∨
     f.b0 = 0x21 ∧ f.b1.toNat ≤ 3 ∨
     f.b0 = 0x28 ∨
     p = supervisor ∧
      (f.b0 ∈ [0x43, 0x45] ∧ f.b1.toNat ≤ 11 ∨
       f.b0 = 0x40 ∧ f.b1.toNat ≤ 11 ∧ f.b2.toNat ≤ 15 ∨
       f.b0 = 0x41 ∧ f.b1.toNat ≤ 11 ∧ f.b2.toNat ≤ 15 ∧ f.b3.toNat ≤ 15 ∧ f.b4.toNat ≤ 15 ∧ f.b5.toNat ≤ 15 ∨
       f.b0 = 0x42 ∧ f.b1.toNat ≤ 11 ∧ f.b3.toNat ≤ 15 ∨
       f.b0 = 0x44 ∧ f.b1.toNat ≤ 11 ∧ f.b2.toNat ≤ 3 ∨
       f.b0 = 0x47 ∧ f.b1.toNat ≤ 3 ∨
       f.b0 ∈ [0x48, 0x58] ∧ f.b1.toNat ≤ 8 ∨
       f.b0 ∈ [0x46, 0x50, 0x51, 0x55] ∨
       f.b0 = 0x52 ∧ f.b1.toNat ≤ 11 ∧ (f.b2 = 1 → f.b3.toNat ≤ 15) ∨
       f.b0 = 0x53 ∧ (f.b1 = 0 → f.b2.toNat ≤ 63) ∧ (f.b1 = 1 → f.b2.toNat ≤ 8) ∨
       f.b0 = 0x54 ∧ (f.b1 = 0 → f.b2.toNat ≤ 3) ∧ (f.b1 = 1 → f.b2.toNat ≤ 11)) →
      ∃ i, f.request p = .passed i) ∧
    (∀ i, f.request p = .passed i →
      ∃ g, i.requestFrame = some g ∧ ∀ n, n ≤ argumentBytes f → g.byteAt n = f.byteAt n) ∧
    ∀ g : Frame, (∀ n, n ≤ argumentBytes f → g.byteAt n = f.byteAt n) → g.request p = f.request p

/-- Every request that its block takes while its port waits is answered: the slot is READY with a frame that carries
the request's command code and clear flag bits, the request has left the way, and no other port changes. A request
whose answer is no longer awaited is carried out as any other, and its answer is dropped (R156, R159, R161). That a
request waits at the head of its port's list is the model's form of this (notes/assumptions/4.md). -/
def Obligations.RequestsAreAnsweredOrDropped : Prop :=
  (∀ (s : State) (i : Instr) (p : PortId) (rest : List Sent), i.requester = some p → s.Awaits p i rest →
     ∃ (t : State) (f : Frame), exec i s = .next t ∧ t.port p = { s.port p with
         slot := .ready f, sent := rest, past := s.view p :: (s.port p).past, since := (t.box p).turns } ∧
       f.b1 = i.commandCode ∧ f.b0.toNat < 64 ∧
       (f.b0 ≠ 0 → f.b2 = 0 ∧ f.b3 = 0 ∧ f.b4 = 0 ∧ f.b5 = 0 ∧ f.b6 = 0 ∧ f.b7 = 0) ∧
       ∀ q, q ≠ p → t.port q = s.port q) ∧
  (∀ (s : State) (i : Instr) (p : PortId) (rest : List Sent), i.requester = some p →
     (s.port p).sent = .request i false :: rest →
     ∃ (t : State) (f : Frame), exec i s = .next t ∧ t.port p = { s.port p with sent := rest } ∧
       let awaited := s.setPort p { s.port p with slot := .working, sent := .request i true :: rest }
       exec i awaited = .next (t.answered p rest f awaited))

/-! ### The request ports -/

/-- A well-formed transaction, by what its first bit found (R149, R150, R152, R153, R156 to R158). SDO carries the frame of
R149 with its flags, or 00h from a fall of PRESENT on. Behind a held response or the NONE marker the frame shifted in is
taken as a request, behind the WORKING marker it is discarded, and both clear FRAMING; a transaction on an absent port,
one cut by a fall and one broken off by a reset take nothing and change no slot or flag. The operand for the first bit,
and that one the port cannot have shown changes nothing, are the model's form (notes/assumptions/3.md, 14.md); that
presence is judged at that moment alone, also where it has changed since the select, is its choice
(notes/assumptions/32.md). -/
def Obligations.TransactionByWhatItShiftsOut : Prop :=
  ∀ (s : State) (p : PortId) (start : FirstBit) (f : Frame),
    let q := { s.port p with past := [], since := (s.box p).turns }
    (∀ (v : View) (g : Frame) (bytes : Nat), s.Began p v g bytes false start →
      exec (.transaction p start f) s = .next { s.setPort p (
          if v.present = false then q
          else if v.slot = .working then { q with framing := false }
          else match f.request p with
            | .answered r => { q with framing := false, slot := .ready (r.frame f.b0) }
            | .passed i => { q with framing := false, slot := .working, sent := q.sent ++ [.request i true] }) with
        sdo := some (carried p g 8 64 []) }) ∧
    (∀ (v : View) (g : Frame) (bytes : Nat), s.Began p v g bytes true start →
      exec (.transaction p start f) s = .next { s.setPort p q with sdo := some (carried p g bytes 64 []) }) ∧
    (start = .reset → exec (.transaction p start f) s = .next (s.setPort p q)) ∧
    (start ≠ .reset → (¬∃ v g bytes cut, s.Began p v g bytes cut start) →
      exec (.transaction p start f) s = .next s)

/-- What a first bit finds (R149), with ALERT as the notice unit drives it (R146, R158), and the status byte of what is
shifted out: FRAMING in bit 7, ALERT in bit 6, the status code below (Table 10-1). ALERT is asserted while the set is not
empty or the lost flag set, and each change of it is counted with the change of the set or flag (R146). A first bit shows
an ALERT only where the port has had it since the transaction before; where nothing has changed since, it shows the
port's own. The views and the count are the model's form (notes/assumptions/14.md). That an absent port shows no ALERT
before its loss is taken is the model's reading (notes/assumptions/12.md), and that a port which has returned shows its
old set until then is the model's choice (notes/assumptions/27.md). -/
def Obligations.FirstBitFindsSlotAndFlags : Prop :=
  (∀ (s : State) (p : PortId),
    (s.alert p = true ↔ (s.port p).present = true ∧ ((s.box p).pending ≠ [] ∨ (s.box p).lost = true)) ∧
    s.view p = {
      slot := (s.port p).slot, framing := (s.port p).framing, present := (s.port p).present, alert := s.alert p
      varied := (s.port p).present && decide ((s.box p).turns ≠ (s.port p).since) } ∧
    (∀ (v : View) (g : Frame) (bytes : Nat) (cut : Bool) (start : FirstBit), s.Began p v g bytes cut start →
      (∀ r, v.slot = .ready r → r.b0.toNat < 64) →
      ((s.port p).past = [] → (s.box p).turns = (s.port p).since →
        v = s.view p ∧ cut = false ∧ g.b0.getLsbD 6 = s.alert p) ∧
      (v.present = true → v.varied = false → g.b0.getLsbD 7 = v.framing ∧ g.b0.getLsbD 6 = v.alert) ∧
      (v.present = false → g.b0.getLsbD 7 = false ∧ g.b0.getLsbD 6 = false)) ∧
    ∀ (v : View) (alert : Bool), ∃ g, v.Shows alert g) ∧
  (∀ b c : Box,
    (b.become c).pending = c.pending ∧ (b.become c).lost = c.lost ∧ (b.become c).leaving = c.leaving ∧
    (b.become c).turns =
      if (c.pending ≠ [] ∨ c.lost = true ↔ b.pending ≠ [] ∨ b.lost = true) then b.turns else b.turns + 1) ∧
  ∀ (f : Frame) (framing alert : Bool), f.b0.toNat < 64 →
    (f.withFlags framing alert).b0.getLsbD 7 = framing ∧ (f.withFlags framing alert).b0.getLsbD 6 = alert ∧
    (f.withFlags framing alert).b0.extractLsb' 0 6 = f.b0.extractLsb' 0 6 ∧
    f.withFlags framing alert = { f with b0 := (f.withFlags framing alert).b0 }

/-- A malformed transaction takes and delivers nothing and sets FRAMING, but not on a port that its first bit found
absent or that has been lost since (R152, R153, R157, R158). SDO carries the frame of R149 over the cycles it has, but
nothing while another select line is asserted. The operands for the first bit and for the overlap are the model's form
(notes/assumptions/14.md); which moment judges a transaction without a bit is its choice (notes/assumptions/32.md). -/
def Obligations.MalformedTransactionSetsFramingOnly : Prop :=
  ∀ (s : State) (p : PortId) (start : FirstBit) (bits : Nat) (overlap : Option (List Nat)),
    bits ≠ 64 ∨ overlap ≠ none →
    let q := { s.port p with past := [], since := (s.box p).turns }
    (∀ (v : View) (g : Frame) (bytes : Nat) (cut : Bool), s.Began p v g bytes cut start →
      exec (.malformedTransaction p start bits overlap) s = .next { s.setPort p { q with
          framing := if v.present = false ∨ cut = true then q.framing else true } with
        sdo := some (carried p g bytes bits (overlap.getD [])) }) ∧
    (start = .reset → exec (.malformedTransaction p start bits overlap) s = .next (s.setPort p q)) ∧
    (start ≠ .reset → (¬∃ v g bytes cut, s.Began p v g bytes cut start) →
      exec (.malformedTransaction p start bits overlap) s = .next s)

/-- A falling edge of PRESENT: the port is absent with its slot EMPTY and FRAMING clear, the answers of its requests
on their way are no longer awaited, and the loss follows them (R157, R159). A rising edge: the port is present with
its slot EMPTY and FRAMING clear. No other block changes (R158). What a transaction in progress can have found is kept for
its release (notes/assumptions/14.md). -/
def Obligations.PresentEdgesEmptyThePort : Prop :=
  ∀ (s : State) (x : AgentId),
    ((s.port x.castSucc).present = true →
      exec (.presentFall x) s = .next (s.setPort x.castSucc { s.port x.castSucc with
        slot := .empty
        framing := false
        present := false
        past := s.view x.castSucc :: (s.port x.castSucc).past
        since := (s.box x.castSucc).turns
        sent := ((s.port x.castSucc).sent.map fun m => match m with
          | .request i _ => .request i false
          | .loss => .loss) ++ [.loss] })) ∧
    ((s.port x.castSucc).present = false →
      exec (.presentRise x) s = .next (s.setPort x.castSucc { s.port x.castSucc with
        slot := .empty, framing := false, present := true
        past := s.view x.castSucc :: (s.port x.castSucc).past, since := (s.box x.castSucc).turns }))

/-! ### The demand table -/

/-- FILE of a new key: the record at the lowest free handle, as R11 gives it, its report, and the answer with the
handle and generation 1. A FLOOR on a PARKED domain leaves no report on its way, by the model's reading of R116
(notes/assumptions/11.md): its domain re-resolves and leaves PARKED for WAKING in this event (R3, R9 to R11, R116). -/
def Obligations.FileCreatesARecord : Prop :=
  ∀ (s : State) (p : PortId) (d : DomainId) (cls : DemandClass) (level : Level) (lease : BitVec 16) (tag : Byte)
    (rest : List Sent) (h : Handle),
    s.Awaits p (.file p d cls level lease tag) rest → s.phase = .run → s.NoKey p d cls → s.liveCount p < s.quota p →
    s.LowestFree h →
    let r : Record := {
      owner := p, domain := d, cls := cls, level := level, tag := tag
      lease := if lease = 0 then none else some { remaining := lease.toNat, due := false }
      generation := 1, acknowledged := 0, lastSettled := none
      status := if (s.domain d).state = .frozen ∨ (s.domain d).state = .off then .held else .pending }
    (¬(cls = .floor ∧ (s.domain d).state = .parked) →
      exec (.file p d cls level lease tag) s = .next
        (State.answered { s.setRecord h (some r) with reports := s.reports ++ [{ domain := d, items := [(h, .created)] }] }
          p rest ⟨0x00, 0x10, byte h, 1, 0, 0, 0, 0⟩ s)) ∧
    (cls = .floor → (s.domain d).state = .parked → ∃ t : State,
      exec (.file p d cls level lease tag) s = .next (t.answered p rest ⟨0x00, 0x10, byte h, 1, 0, 0, 0, 0⟩ s) ∧
      t = State.reresolve (s.setRecord h (some r)) d ∧
      t.record h = some r ∧ t.reports = s.reports ∧ (∀ k, k ≠ h → (s.record k = none → t.record k = none)) ∧
      ((t.domain d).state = .waking .rail ∨ (t.domain d).state = .waking .gate) ∧
      ∀ e, e ≠ d → t.domain e = s.domain e)

/-- FILE of a key that is live replaces its record in place: generation, acknowledged generation, last settled status,
status and lease as R12 gives them, the record's IN_FORCE or CLAMPED gone from its owner's set, and a report. There is
no quota or capacity check (R10, R12). -/
def Obligations.FileReplacesARecord : Prop :=
  ∀ (s : State) (p : PortId) (d : DomainId) (cls : DemandClass) (level : Level) (lease : BitVec 16) (tag : Byte)
    (rest : List Sent) (h : Handle) (r : Record),
    s.Awaits p (.file p d cls level lease tag) rest → s.phase = .run → s.KeysUnique → s.record h = some r →
    r.owner = p → r.domain = d → r.cls = cls →
    let g : Byte := if r.generation = 255 then 1 else r.generation + 1
    exec (.file p d cls level lease tag) s = .next
      (State.answered { (s.setRecord h (some { r with
            level := level, tag := tag
            lease := if lease = 0 then none else some { remaining := lease.toNat, due := false }
            generation := g, acknowledged := if g = r.acknowledged then 0 else r.acknowledged, lastSettled := none
            status := if (s.domain d).state = .frozen ∨ (s.domain d).state = .off then .held else .pending })).setBox p
          ((s.box p).become { s.box p with pending := (s.box p).pending.filter fun n => n.standing ≠ some h }) with
        reports := s.reports ++ [{ domain := d, items := [(h, .replaced)] }] }
          p rest ⟨0x00, 0x10, byte h, g, 0, 0, 0, 0⟩ s)

/-- The refusals of FILE in their order; a refused FILE changes nothing but its port (R10, Table 1-2). -/
def Obligations.FileRefusalsInOrder : Prop :=
  ∀ (s : State) (p : PortId) (d : DomainId) (cls : DemandClass) (level : Level) (lease : BitVec 16) (tag : Byte)
    (rest : List Sent), s.Awaits p (.file p d cls level lease tag) rest →
    (s.phase = .setup → exec (.file p d cls level lease tag) s = .next (s.answered p rest (refusal 0x13 0x10))) ∧
    (s.phase = .run → s.NoKey p d cls → s.quota p ≤ s.liveCount p →
      exec (.file p d cls level lease tag) s = .next (s.answered p rest (refusal 0x23 0x10))) ∧
    (s.phase = .run → s.NoKey p d cls → s.liveCount p < s.quota p → (∀ h, s.record h ≠ none) →
      exec (.file p d cls level lease tag) s = .next (s.answered p rest (refusal 0x22 0x10)))

/-- RENEW sets the lease of the requester's own record and nothing else; RELEASE retires it without a notice: its
handle is free, its IN_FORCE or CLAMPED is gone from its owner's set, and the retirement is reported. Both answer tag
and generation; a handle without a record is NO_HANDLE, another port's record NOT_OWNER, for S as for any port (R14 to
R16). -/
def Obligations.RenewAndRelease : Prop :=
  (∀ (s : State) (p : PortId) (h : Handle) (lease : BitVec 16) (rest : List Sent), s.Awaits p (.renew p h lease) rest →
     (∀ r ∈ s.record h, r.owner = p → exec (.renew p h lease) s = .next
       ((s.setRecord h (some { r with
         lease := if lease = 0 then none else some { remaining := lease.toNat, due := false } })).answered p rest
         ⟨0x00, 0x11, r.tag, r.generation, 0, 0, 0, 0⟩ s)) ∧
     (s.record h = none → exec (.renew p h lease) s = .next (s.answered p rest (refusal 0x20 0x11))) ∧
     (∀ r ∈ s.record h, r.owner ≠ p → exec (.renew p h lease) s = .next (s.answered p rest (refusal 0x21 0x11)))) ∧
  (∀ (s : State) (p : PortId) (h : Handle) (rest : List Sent), s.Awaits p (.release p h) rest →
     (∀ r ∈ s.record h, r.owner = p → exec (.release p h) s = .next
       (State.answered { (s.setRecord h none).setBox p
           ((s.box p).become { s.box p with pending := (s.box p).pending.filter fun n => n.standing ≠ some h }) with
         reports := s.reports ++ [{ domain := r.domain, items := [(h, .retired)] }] } p rest
         ⟨0x00, 0x12, r.tag, r.generation, 0, 0, 0, 0⟩ s)) ∧
     (s.record h = none → exec (.release p h) s = .next (s.answered p rest (refusal 0x20 0x12))) ∧
     (∀ r ∈ s.record h, r.owner ≠ p → exec (.release p h) s = .next (s.answered p rest (refusal 0x21 0x12))))

/-- READ-DEMAND and NEXT-DEMAND answer from the table and change nothing but their port (R18, R19, Tables 10-4, 10-5).
That the bits of byte 3 which Table 10-5 leaves open are 0 is the model's choice (notes/assumptions/29.md). -/
def Obligations.DemandReadsChangeNothing : Prop :=
  ∀ (s : State) (p : PortId) (h : Handle) (rest : List Sent),
    (s.Awaits p (.readDemand p h) rest →
      (∀ r ∈ s.record h, p = supervisor ∨ r.owner = p → exec (.readDemand p h) s = .next (s.answered p rest
        ⟨0x00, 0x18, byte (r.domain * 16 + r.level), byte (r.cls.number * 16 + r.status.number), r.generation,
          r.acknowledged, byte ((r.lease.elim 0 Lease.remaining) / 256), byte (r.lease.elim 0 Lease.remaining)⟩)) ∧
      (s.record h = none → exec (.readDemand p h) s = .next (s.answered p rest (refusal 0x20 0x18))) ∧
      (∀ r ∈ s.record h, p ≠ supervisor → r.owner ≠ p →
        exec (.readDemand p h) s = .next (s.answered p rest (refusal 0x21 0x18)))) ∧
    (s.Awaits p (.nextDemand p h) rest →
      (∀ k, ∀ r ∈ s.record k, h ≤ k → p = supervisor ∨ r.owner = p →
        (∀ j, h ≤ j → j < k → ∀ q ∈ s.record j, p ≠ supervisor ∧ q.owner ≠ p) →
        exec (.nextDemand p h) s = .next (s.answered p rest
          ⟨0x00, 0x19, byte k, byte r.domain, byte r.cls.number, r.tag, 0, 0⟩)) ∧
      ((∀ j, h ≤ j → ∀ q ∈ s.record j, p ≠ supervisor ∧ q.owner ≠ p) →
        exec (.nextDemand p h) s = .next (s.answered p rest (refusal 0x25 0x19))))

/-- SET-QUOTA: above 64 BAD_ARGUMENT, below the live count QUOTA_IN_USE, otherwise stored (R8); READ-PORT answers live
count, quota, presence and the number of notices, and changes nothing (R20). -/
def Obligations.QuotaIsSetAndRead : Prop :=
  ∀ (s : State) (p : PortId) (quota : Byte) (rest : List Sent),
    (s.Awaits supervisor (.setQuota p quota) rest →
      (quota.toNat > 64 →
        exec (.setQuota p quota) s = .next (s.answered supervisor rest (refusal 0x12 0x48))) ∧
      (quota.toNat ≤ 64 → quota.toNat < s.liveCount p →
        exec (.setQuota p quota) s = .next (s.answered supervisor rest (refusal 0x36 0x48))) ∧
      (quota.toNat ≤ 64 → s.liveCount p ≤ quota.toNat → exec (.setQuota p quota) s = .next
        ((s.setQuota p quota.toNat).answered supervisor rest ⟨0x00, 0x48, byte (s.liveCount p), 0, 0, 0, 0, 0⟩ s))) ∧
    (s.Awaits supervisor (.readPort p) rest → exec (.readPort p) s = .next (s.answered supervisor rest
      ⟨0x00, 0x58, byte (s.liveCount p), byte (s.quota p), if (s.port p).present then 1 else 0,
        byte (s.box p).pending.length, 0, 0⟩))

/-- OPEN moves the phase to RUN, in either phase without a check (R6). CLOSE is STILL_LIVE in RUN with any live
record, and otherwise the phase is SETUP (R7). -/
def Obligations.OpenAndCloseMoveThePhase : Prop :=
  (∀ (s : State) (rest : List Sent), s.Awaits supervisor .openPhase rest →
     exec .openPhase s = .next (State.answered { s with phase := .run } supervisor rest ⟨0x00, 0x50, 0, 0, 0, 0, 0, 0⟩ s) ∧
     (s.phase = .run → { s with phase := .run } = s)) ∧
  (∀ (s : State) (rest : List Sent), s.Awaits supervisor .closePhase rest →
     (s.phase = .run → (∃ h r, s.record h = some r) →
       exec .closePhase s = .next (s.answered supervisor rest (refusal 0x32 0x51))) ∧
     (s.phase = .setup ∨ (∀ h, s.record h = none) →
       exec .closePhase s = .next (State.answered { s with phase := .setup } supervisor rest ⟨0x00, 0x51, 0, 0, 0, 0, 0, 0⟩ s)))

/-- EVICT in handle form retires the record whoever owns it, raises EVICTED to the owner and answers the owner and 1;
without a record it is NO_HANDLE, and a form argument above 1 is BAD_ARGUMENT. In port form it retires every record of
the port and no other, raises EVICTED for each in ascending order of handle, reports them together, keeps the quota and
answers their number. Each EVICTED takes the IN_FORCE or CLAMPED of its handle out of the set in its one arrival (R9,
R16, R21, R22, R142, R154; the note of a removal that is due is the model's form, notes/assumptions/10.md). -/
def Obligations.EvictRetiresByHandleOrPort : Prop :=
  (∀ (s : State) (h : Handle) (form : Byte) (rest : List Sent),
     (s.Awaits supervisor (.evictHandleForm (.number h)) rest →
       (∀ r ∈ s.record h, exec (.evictHandleForm (.number h)) s = .next
         (State.answered { (s.setRecord h none).setBox r.owner ((s.box r.owner).noting h) with
           raised := s.raised ++ [[(r.owner, .evicted h r.tag)]]
           reports := s.reports ++ [{ domain := r.domain, items := [(h, .retired)] }] } supervisor rest
           ⟨0x00, 0x53, byte r.owner, 1, 0, 0, 0, 0⟩ s) ∧
         ∀ n ∈ (((s.box r.owner).noting h).place (.evicted h r.tag)).pending, n.standing ≠ some h) ∧
       (s.record h = none →
         exec (.evictHandleForm (.number h)) s = .next (s.answered supervisor rest (refusal 0x20 0x53)))) ∧
     (s.Awaits supervisor (.evictHandleForm (.otherForm form)) rest →
       exec (.evictHandleForm (.otherForm form)) s = .next (s.answered supervisor rest (refusal 0x12 0x53)))) ∧
  (∀ (s : State) (p : PortId) (rest : List Sent), s.Awaits supervisor (.evictPortForm p) rest →
     let gone := s.live.filter fun x => x.2.owner = p
     ∃ t : State, exec (.evictPortForm p) s = .next
         (t.answered supervisor rest ⟨0x00, 0x53, 0, byte gone.length, 0, 0, 0, 0⟩ s) ∧
       t = { s with records := t.records, boxes := t.boxes, raised := t.raised, reports := t.reports } ∧
       (∀ h, t.record h = if (s.record h).any (fun r => r.owner = p) then none else s.record h) ∧
       (t.box p).lost = (s.box p).lost ∧ (t.box p).pending = (s.box p).pending ∧ (t.box p).turns = (s.box p).turns ∧
       (∀ h, h ∈ (t.box p).leaving ↔ h ∈ (s.box p).leaving ∨ ∃ r ∈ s.record h, r.owner = p) ∧
       (∀ x ∈ gone, ∀ b : Box, x.1 ∈ b.leaving →
         ∀ n ∈ (b.place (.evicted x.1 x.2.tag)).pending, n.standing ≠ some x.1) ∧
       (∀ q, q ≠ p → t.box q = s.box q) ∧
       t.raised = (if gone = [] then s.raised
         else s.raised ++ [gone.map fun x => (p, Notice.evicted x.1 x.2.tag)]) ∧
       t.reports = s.reports ++ retirementReports gone)

/-- RESTART-TABLES retires every record without a notice, empties the pending sets and lost flags of the agent
ports, takes only IN_FORCE and CLAMPED of retired records from that of S, and keeps all else (R23, R147). That
notices on their way are kept is the model's choice (notes/assumptions/9.md). -/
def Obligations.RestartTablesEmptiesTheTable : Prop :=
  ∀ (s : State) (rest : List Sent), s.Awaits supervisor .restartTables rest →
    ∃ t : State, exec .restartTables s = .next
        (t.answered supervisor rest ⟨0x00, 0x55, byte s.live.length, 0, 0, 0, 0, 0⟩ s) ∧
      t = { s with records := t.records, boxes := t.boxes, reports := t.reports } ∧
      (∀ h, t.record h = none) ∧
      (∀ x : AgentId, t.box x.castSucc = (s.box x.castSucc).become
        { pending := [], lost := false, leaving := [], turns := 0 }) ∧
      (t.box supervisor).turns = ((s.box supervisor).become (t.box supervisor)).turns ∧
      (t.box supervisor).lost = (s.box supervisor).lost ∧ (t.box supervisor).leaving = (s.box supervisor).leaving ∧
      (∀ n, n ∈ (t.box supervisor).pending ↔
        n ∈ (s.box supervisor).pending ∧ ∀ h, n.standing = some h → ∀ r ∈ s.record h, r.owner ≠ supervisor) ∧
      t.reports = s.reports ++ retirementReports s.live

/-- The demand table takes the loss of Ax (R24, R25, R159): its records are retired without notices and reported, its
pending set and lost flag emptied, PORT_LOST(x) raised to S, and its requests ahead of the loss that the demand table
or the notice unit would take discarded. Everything else is kept. That notices on their way to Ax are dropped with its
set is the model's choice (notes/assumptions/9.md). -/
def Obligations.PortLossRetiresTheAgentsRecords : Prop :=
  ∀ (s : State) (x : AgentId) (ahead rest : List Sent),
    (s.port x.castSucc).sent = ahead ++ .loss :: rest → .loss ∉ ahead →
    let gone := s.live.filter fun y => y.2.owner = x.castSucc
    ∃ t : State, exec (.portLoss x) s = .next t ∧
      t = { s with records := t.records, boxes := t.boxes, raised := t.raised, reports := t.reports, ports := t.ports } ∧
      (∀ h, t.record h = if (s.record h).any (fun r => r.owner = x.castSucc) then none else s.record h) ∧
      t.box x.castSucc = (s.box x.castSucc).become { pending := [], lost := false, leaving := [], turns := 0 } ∧
      (∀ q, q ≠ x.castSucc → t.box q = s.box q) ∧
      t.port x.castSucc = { s.port x.castSucc with sent := ahead.filter (fun m => match m with
        | .request i _ => !i.lostWithPort
        | .loss => true) ++ rest } ∧
      (∀ q, q ≠ x.castSucc → t.port q = s.port q) ∧
      t.raised = raisedWithout x.castSucc s.raised ++ [[(supervisor, .portLost x)]] ∧
      t.reports = s.reports ++ retirementReports gone

/-- Retirements made together are reported together: each domain with an affected record receives one report, which
names exactly its records, and no other domain receives one (R9). -/
def Obligations.RetirementsAreReportedTogether : Prop :=
  ∀ gone : List (Handle × Record),
    ((retirementReports gone).map Report.domain).Nodup ∧
    (∀ d, (∃ x ∈ gone, x.2.domain = d) ↔ ∃ r ∈ retirementReports gone, r.domain = d) ∧
    ∀ r ∈ retirementReports gone, ∀ h k, (h, k) ∈ r.items ↔ k = .retired ∧ ∃ x ∈ gone, x.1 = h ∧ x.2.domain = r.domain

/-- A millisecond boundary lowers every lease by one, and from 1 makes its expiry due while it still shows 1 (R13; the
two steps are DEDUCED, notes/assumptions/5.md). The expiry of a due lease retires the record, raises EXPIRED with its
handle and tag to the owner, and reports; the EXPIRED takes the IN_FORCE or CLAMPED of its handle out of the set in its
one arrival (R16, R17, R142; notes/assumptions/10.md). Without a due lease nothing changes, by the model's choice
(notes/assumptions/3.md). -/
def Obligations.LeasesCountDownAndExpire : Prop :=
  ∀ (s : State),
    (∃ t : State, exec .millisecondBoundary s = .next t ∧ t = { s with records := t.records } ∧
      ∀ h, t.record h = (s.record h).map fun r => { r with lease := r.lease.map fun l =>
        if l.remaining ≤ 1 then { l with due := true } else { l with remaining := l.remaining - 1 } }) ∧
    ∀ (h : Handle),
      (∀ r ∈ s.record h, ∀ n, r.lease = some { remaining := n, due := true } →
        exec (.leaseExpiry h) s = .next
          { (s.setRecord h none).setBox r.owner ((s.box r.owner).noting h) with
            raised := s.raised ++ [[(r.owner, .expired h r.tag)]]
            reports := s.reports ++ [{ domain := r.domain, items := [(h, .retired)] }] } ∧
        ∀ n ∈ (((s.box r.owner).noting h).place (.expired h r.tag)).pending, n.standing ≠ some h) ∧
      ((∀ r ∈ s.record h, ∀ l ∈ r.lease, l.due = false) → exec (.leaseExpiry h) s = .next s)

/-! ### The notice unit -/

/-- TAKE-NOTICE: the oldest notice with the number left, else OVERFLOW once for a lost flag, else NO_NOTICE (R144,
Table 10-9 for the record kinds and the fault kinds). -/
def Obligations.TakeNoticeThreeAnswers : Prop :=
  ∀ (s : State) (p : PortId) (rest : List Sent), s.Awaits p (.takeNotice p) rest →
    (∀ n ns, (s.box p).pending = n :: ns →
      ∃ f : Frame, exec (.takeNotice p) s = .next ((s.setBox p ((s.box p).become { s.box p with pending := ns })).answered p rest f s) ∧
        f.b0 = 0x00 ∧ f.b1 = 0x28 ∧ f.b7 = byte ns.length ∧
        (f.b2, f.b3, f.b4, f.b5, f.b6) = (match n with
          | .inForce h tag generation level => (0x01, byte h, tag, generation, byte level)
          | .clamped h tag generation level => (0x02, byte h, tag, generation, byte level)
          | .expired h tag => (0x03, byte h, tag, 0, 0)
          | .evicted h tag => (0x04, byte h, tag, 0, 0)
          | .domainHeld d => (0x05, byte d, 0, 0, 0)
          | .railFault v => (0x06, byte v, 0, 0, 0)
          | .railShutdown v => (0x07, byte v, 0, 0, 0)
          | .clockFault d => (0x08, byte d, 0, 0, 0)
          | .portLost x => (0x09, byte x, 0, 0, 0)
          | .consentSilent d => (0x0A, byte d, 0, 0, 0))) ∧
    ((s.box p).pending = [] → (s.box p).lost = true → exec (.takeNotice p) s = .next
      ((s.setBox p ((s.box p).become { s.box p with lost := false })).answered p rest ⟨0x00, 0x28, 0x0F, 0, 0, 0, 0, 0⟩ s)) ∧
    ((s.box p).pending = [] → (s.box p).lost = false →
      exec (.takeNotice p) s = .next (s.answered p rest (refusal 0x24 0x28)))

/-- A notice that arrives first makes the removal that goes with it, where one is due (R142), and is then placed by the
four cases of R141: it takes out its opposite for the same handle, updates one of the same kind and subject in place,
joins at the tail where fewer than 16 are left, and else is lost. An evaluation places its notices in the same way.
Of the notices on their way, the first one that an event raised to a port may arrive, and taking it leaves the
others in their order (R142). The list of notices on their way and the note of removals that are due are the model's
form of R142 (notes/assumptions/10.md). -/
def Obligations.NoticesArriveInOrderAndArePlaced : Prop :=
  (∀ (s : State) (p : PortId) (n : Notice) (left : List (List (PortId × Notice))), takeRaised p n s.raised = some left →
     exec (.noticeArrival p n) s = .next (State.setBox { s with raised := left } p ((s.box p).place n))) ∧
  (∀ (b : Box) (n : Notice),
     let kept := (b.relieved n).pending.filter fun m => !n.opposes m
     b.place n = b.become (
       if ∃ m ∈ kept, n.same m = true then
         { b.relieved n with pending := kept.map fun m => if n.same m then n else m }
       else if kept.length < 16 then { b.relieved n with pending := kept ++ [n] }
       else { b.relieved n with pending := kept, lost := true })) ∧
  (∀ (p : PortId) (n : Notice) (before after : List (List (PortId × Notice))) (ahead behind : List (PortId × Notice)),
     (∀ x ∈ ahead, x.1 ≠ p) → (∀ xs ∈ before, takeFirst p n xs = none) →
     takeRaised p n (before ++ (ahead ++ (p, n) :: behind) :: after) =
       some (before ++ (if ahead ++ behind = [] then [] else [ahead ++ behind]) ++ after) ∧
     ∀ m, m ≠ n → takeFirst p m (ahead ++ (p, n) :: behind) = none)

/-! ### Settings and reads -/

/-- SET-TIMES and SET-CONSENT store their counts, a count of 0 is BAD_ARGUMENT, and no running timer is touched (R54,
R123). -/
def Obligations.TimesAndConsentAreStored : Prop :=
  ∀ (s : State) (d : DomainId) (lock gate : Byte) (rest : List Sent),
    (s.Awaits supervisor (.setTimes d lock gate) rest →
      (lock = 0 ∨ gate = 0 →
        exec (.setTimes d lock gate) s = .next (s.answered supervisor rest (refusal 0x12 0x43))) ∧
      (lock ≠ 0 → gate ≠ 0 → exec (.setTimes d lock gate) s = .next
        ((s.setConfig d { s.config d with lockCount := lock, gateCount := gate }).answered supervisor rest
          ⟨0x00, 0x43, 0, 0, 0, 0, 0, 0⟩ s))) ∧
    (s.Awaits supervisor (.setConsent lock) rest →
      (lock = 0 → exec (.setConsent lock) s = .next (s.answered supervisor rest (refusal 0x12 0x46))) ∧
      (lock ≠ 0 → exec (.setConsent lock) s = .next
        (State.answered { s with park := { s.park with timeout := lock } } supervisor rest
          ⟨0x00, 0x46, 0, 0, 0, 0, 0, 0⟩ s)))

/-- SET-POINT: the checks of Table 3-3 in their order, with the in-use set of R47; an accepted one writes the entry,
and the domain re-resolves in the same event (R47 to R50). -/
def Obligations.SetPointChecksAndWrites : Prop :=
  ∀ (s : State) (d : DomainId) (l : Level) (valid clock volt : Byte) (rest : List Sent),
    s.Awaits supervisor (.setPoint d l valid clock volt) rest →
    let used : Prop := (s.domain d).current = l ∨ (s.domain d).target = l ∨ (s.domain d).step = some l ∨
      (s.config d).rest = l ∨ (s.config d).safe = l
    let u := (s.setPoint d l { valid := valid = 1, clock := clock, volt := volt }).reresolve d
    (valid ≠ 0 → valid ≠ 1 → exec (.setPoint d l valid clock volt) s =
      .next (s.answered supervisor rest (refusal 0x12 0x40))) ∧
    (valid = 0 ∨ valid = 1 → used → exec (.setPoint d l valid clock volt) s =
      .next (s.answered supervisor rest (refusal 0x30 0x40))) ∧
    (valid = 0 → ¬used → l = 0 → exec (.setPoint d l valid clock volt) s =
      .next (s.answered supervisor rest (refusal 0x12 0x40))) ∧
    (valid = 1 → ¬used → ¬(s.rail (s.railOf d)).inside volt → exec (.setPoint d l valid clock volt) s =
      .next (s.answered supervisor rest (refusal 0x31 0x40))) ∧
    ((valid = 0 ∧ l ≠ 0) ∨ (valid = 1 ∧ (s.rail (s.railOf d)).inside volt) → ¬used →
      exec (.setPoint d l valid clock volt) s = .next (u.answered supervisor rest
        ⟨0x00, 0x40, byte (u.domain d).target, byte (u.domain d).source.number, 0, 0, 0, 0⟩ s))

/-- SET-LEVELS and SET-THROTTLE: their checks in order; accepted, they write the record, SET-THROTTLE takes the
present level of the line now followed, and the domain re-resolves in the same event (R51 to R53, R31). -/
def Obligations.LevelsAndThrottleAreWritten : Prop :=
  ∀ (s : State) (d : DomainId) (rl sl low high : Level) (line : Byte) (rest : List Sent),
    (s.Awaits supervisor (.setLevels d rl sl low high) rest →
      let bad : Prop := (s.point d rl).valid = false ∨ (s.point d sl).valid = false ∨ high < low
      let u := (s.setConfig d { s.config d with
        rest := rl, safe := sl, floorLimit := low, ceilingLimit := high }).reresolve d
      (bad → exec (.setLevels d rl sl low high) s = .next (s.answered supervisor rest (refusal 0x12 0x41))) ∧
      (¬bad → (s.rail (s.railOf d)).fallback < s.code d sl → exec (.setLevels d rl sl low high) s =
        .next (s.answered supervisor rest (refusal 0x31 0x41))) ∧
      (¬bad → s.code d sl ≤ (s.rail (s.railOf d)).fallback → exec (.setLevels d rl sl low high) s =
        .next (u.answered supervisor rest
          ⟨0x00, 0x41, byte (u.domain d).target, byte (u.domain d).source.number, 0, 0, 0, 0⟩ s))) ∧
    (s.Awaits supervisor (.setThrottle d line low) rest →
      (line.toNat > 2 →
        exec (.setThrottle d line low) s = .next (s.answered supervisor rest (refusal 0x12 0x42))) ∧
      ∀ followed level, (line, followed, level) ∈
          [((0 : Byte), none, false), (1, some ThrottleLine.thr0, s.pins.thr0), (2, some .thr1, s.pins.thr1)] →
        let u := ((s.setConfig d { s.config d with throttleLine := followed, throttleLevel := low }).setDomain d
          { s.domain d with throttled := level }).reresolve d
        exec (.setThrottle d line low) s = .next (u.answered supervisor rest
          ⟨0x00, 0x42, byte (u.domain d).target, byte (u.domain d).source.number, 0, 0, 0, 0⟩ s))

/-- FORCE sets or clears the force level, the domain re-resolves in the same event, and the answer carries the target,
the source and the force level as held; a set-or-clear byte above 1 changes nothing (R35, R161). -/
def Obligations.ForceSetsAndClears : Prop :=
  ∀ (s : State) (d : DomainId) (level : Level) (b : Byte) (rest : List Sent),
    (s.Awaits supervisor (.force d (.set level)) rest →
      let u := (s.setDomain d { s.domain d with force := some level }).reresolve d
      exec (.force d (.set level)) s = .next (u.answered supervisor rest
        ⟨0x00, 0x52, byte (u.domain d).target, byte (u.domain d).source.number, 1, byte level, 0, 0⟩ s)) ∧
    (s.Awaits supervisor (.force d .clear) rest →
      let u := (s.setDomain d { s.domain d with force := none }).reresolve d
      exec (.force d .clear) s = .next (u.answered supervisor rest
        ⟨0x00, 0x52, byte (u.domain d).target, byte (u.domain d).source.number, 0, 0, 0, 0⟩ s)) ∧
    (s.Awaits supervisor (.force d (.other b)) rest →
      exec (.force d (.other b)) s = .next (s.answered supervisor rest (refusal 0x12 0x52)))

/-- MAP: the checks of Table 3-4 in their order; an accepted one changes the rail of the domain and nothing else of
any domain, and both rails re-evaluate by the command rule (R55 to R57, R86, R88). The order in which they join the
waiting set is free (notes/assumptions/7.md). -/
def Obligations.MapChecksAndMoves : Prop :=
  ∀ (s : State) (d : DomainId) (v : RailId) (rest : List Sent), s.Awaits supervisor (.map d v) rest →
    let r := s.rail v
    let atRest : Prop := (s.domain d).state = .steady ∧ (s.domain d).current = 0 ∧ (s.domain d).target = 0
    let fits : Prop := (∀ l, (s.point d l).valid = true → r.inside (s.code d l)) ∧
      s.code d (s.config d).safe ≤ r.fallback
    let covered : Prop := s.code d 0 ≤ r.confirmed ∧
      ∀ code tries phase, r.command = .outstanding code tries phase → s.code d 0 ≤ code
    (s.phase = .run → exec (.map d v) s = .next (s.answered supervisor rest (refusal 0x13 0x44))) ∧
    (s.phase = .setup → ¬atRest → exec (.map d v) s = .next (s.answered supervisor rest (refusal 0x30 0x44))) ∧
    (s.phase = .setup → atRest → r.state = .fallback ∨ r.state = .held →
      exec (.map d v) s = .next (s.answered supervisor rest (refusal 0x34 0x44))) ∧
    (s.phase = .setup → atRest → r.state = .shutdown →
      exec (.map d v) s = .next (s.answered supervisor rest (refusal 0x35 0x44))) ∧
    (s.phase = .setup → atRest → r.faulted = false → ¬(fits ∧ covered) →
      exec (.map d v) s = .next (s.answered supervisor rest (refusal 0x31 0x44))) ∧
    (s.phase = .setup → atRest → r.faulted = false → fits → covered →
      ∃ t : State, exec (.map d v) s =
          .next (t.answered supervisor rest ⟨0x00, 0x44, byte (s.railOf d), byte v, 0, 0, 0, 0⟩ s) ∧
        t = { s with setups := t.setups, rails := t.rails, link := t.link, choices := t.choices } ∧
        (∀ e, t.config e = if e = d then { s.config d with rail := v } else s.config e) ∧
        (∀ e l, t.point e l = s.point e l) ∧
        (∀ w, w ≠ v → w ≠ s.railOf d → t.rail w = s.rail w) ∧
        (∀ w, w = v ∨ w = s.railOf d →
          t.rail w = ((s.setConfig d { s.config d with rail := v }).reevaluate w).rail w ∧
          (t.rail w).required = t.requiredCode w ∧
          t.rail w = { s.rail w with
            required := (t.rail w).required, command := (t.rail w).command, state := (t.rail w).state }) ∧
        ∃ elected, t.link = { s.link with elected := elected })

/-- SET-PARK: its checks; accepted, it writes the three settings and re-resolves nothing; disabling park withdraws a
domain in CONSENT, which plans toward its target; a settled domain that now meets the four conditions starts its quiet
timer, unless it runs, one that no longer meets them stops it, and in every other state the settings are stored. The
others in the consent queue keep their order, and the channel, once free, serves the next (R78, R108, R113, R114,
R122). -/
def Obligations.SetParkByState : Prop :=
  ∀ (s : State) (d : DomainId) (enable window policy : Byte) (rest : List Sent),
    s.Awaits supervisor (.setPark d enable window policy) rest →
    (enable.toNat > 1 ∨ policy.toNat > 1 ∨ window = 0 → exec (.setPark d enable window policy) s =
      .next (s.answered supervisor rest (refusal 0x12 0x45))) ∧
    (enable.toNat ≤ 1 → policy.toNat ≤ 1 → window ≠ 0 →
      let stored := s.setConfig d { s.config d with
        park := enable = 1, window := window, policy := if policy = 1 then .park else .stay }
      ∃ t : State, exec (.setPark d enable window policy) s = .next (t.answered supervisor rest
          ⟨0x00, 0x45, byte (t.domain d).state.number, 0, 0, 0, 0, 0⟩ s) ∧
        ((s.domain d).state = .consent → enable = 0 →
          stored.DomainFrame d t ∧ s.PlansTo t d (s.domain d).current (s.domain d).target ∧
          s.Told t (s.planNotices d (s.domain d).current (s.domain d).target) ∧ t.park = s.parkWithout (· = d) ∧
          d ∉ t.park.queue ∧ (s.ConsentSound → ∀ x ∈ t.park.request, x.1 ≠ d)) ∧
        (¬((s.domain d).state = .consent ∧ enable = 0) →
          t = stored.setDomain d { s.domain d with
            quietTimer :=
              if (s.domain d).settled = true ∧ enable = 1 ∧ s.hasFloor d = false ∧ (s.domain d).force = none then
                some ((s.domain d).quietTimer.getD (window.toNat * 1000))
              else none }))

/-- SET-RAIL: the checks of Table 5-6 in their order; an accepted one writes the settings and the rail re-evaluates;
the answer carries the confirmed code and the required code (R101, R102). -/
def Obligations.SetRailChecksAndWrites : Prop :=
  ∀ (s : State) (v : RailId) (min max fallback retention stepTime : Byte) (rest : List Sent),
    s.Awaits supervisor (.setRail v min max fallback retention stepTime) rest →
    let r := s.rail v
    let run := exec (.setRail v min max fallback retention stepTime) s
    let bad : Prop := max < min ∨ stepTime = 0
    let out (code : Byte) : Prop := code < min ∨ max < code
    let misfit : Prop := out fallback ∨ out retention ∨
      (∃ d l, s.railOf d = v ∧ (s.point d l).valid = true ∧ out (s.code d l)) ∨
      (∃ d, s.railOf d = v ∧ fallback < s.code d (s.config d).safe) ∨
      (∃ code tries phase, r.command = .outstanding code tries phase ∧ out code)
    let u := (s.setRail v { r with
      min := min, max := max, fallback := fallback, retention := retention, stepTime := stepTime }).reevaluate v
    (bad → run = .next (s.answered supervisor rest (refusal 0x12 0x47))) ∧
    (¬bad → r.state = .fallback ∨ r.state = .held → run = .next (s.answered supervisor rest (refusal 0x34 0x47))) ∧
    (¬bad → r.state = .shutdown → run = .next (s.answered supervisor rest (refusal 0x35 0x47))) ∧
    (¬bad → r.faulted = false → misfit → run = .next (s.answered supervisor rest (refusal 0x31 0x47))) ∧
    (¬bad → r.faulted = false → ¬misfit → run = .next (u.answered supervisor rest
      ⟨0x00, 0x47, (u.rail v).confirmed, (u.rail v).required, 0, 0, 0, 0⟩ s))

/-- READ-DOMAIN, READ-RAIL and READ-POINT answer their pages from the controllers, the table and the settings, refuse
any other page, and change nothing but their port (R60, R80, R104, Tables 10-6 to 10-8). The numbers that these and the
other answers send are those of section 10.3 and of Tables 10-5 to 10-7. That the bits of a byte which these tables leave
open are 0 is the model's choice (notes/assumptions/29.md). -/
def Obligations.PageReadsShowTheState : Prop :=
  (∀ (s : State) (p : PortId) (d : DomainId) (page : Byte) (rest : List Sent), s.Awaits p (.readDomain p d page) rest →
     let c := s.domain d
     ∃ f : Frame, exec (.readDomain p d page) s = .next (s.answered p rest f) ∧ f.b1 = 0x20 ∧
       (page.toNat > 1 → f = refusal 0x12 0x20) ∧
       (page = 0 → f.b0 = 0x00 ∧
         f.b2.toNat = c.state.number * 16 + c.state.stageNumber ∧
         f.b3.toNat = c.current * 16 + c.target ∧
         f.b4.toNat = (c.step.getD 0 : Level) * 16 + (c.force.getD 0 : Level) ∧
         f.b5.getLsbD 7 = c.step.isSome ∧ f.b5.getLsbD 6 = c.force.isSome ∧ f.b5.getLsbD 5 = c.need.isSome ∧
         f.b5.getLsbD 4 = c.settled ∧ f.b5.getLsbD 3 = c.gated ∧ f.b5.toNat % 8 = c.cause.number ∧
         f.b6.toNat = c.source.number ∧ f.b7 = c.need.getD 0) ∧
       (page = 1 → f.b0 = 0x00 ∧
         f.b2.toNat = (s.live.filter fun x => x.2.domain = d ∧ x.2.cls = .floor).length ∧
         f.b3.toNat = (s.live.filter fun x => x.2.domain = d ∧ x.2.cls = .cap).length ∧
         (c.quietTimer = none → f.b4 = 0) ∧
         (∀ n, c.quietTimer = some n → n ≤ 255000 → n ≤ f.b4.toNat * 1000 ∧ f.b4.toNat * 1000 < n + 1000) ∧
         f.b5 = 0 ∧ f.b6 = 0 ∧ f.b7 = 0)) ∧
  (∀ (s : State) (p : PortId) (v : RailId) (d : DomainId) (page : Byte) (rest : List Sent),
     (s.Awaits p (.readRail p v page) rest →
       let r := s.rail v
       ∃ f : Frame, exec (.readRail p v page) s = .next (s.answered p rest f) ∧ f.b1 = 0x21 ∧
         (page.toNat > 1 → f = refusal 0x12 0x21) ∧
         (page = 0 → f.b0 = 0x00 ∧ f.b2.toNat / 32 = r.state.number ∧ f.b2.toNat / 4 % 8 = r.cause.number ∧
           f.b2.toNat % 4 = r.command.tryNumber ∧ f.b3 = r.confirmed ∧ f.b4 = r.required ∧ f.b5 = s.assured v ∧
           f.b6 = r.command.codeByte ∧ f.b7.toNat = r.command.indication) ∧
         (page = 1 → f.b0 = 0x00 ∧ f.b2 = r.min ∧ f.b3 = r.max ∧ f.b4 = r.fallback ∧ f.b5 = r.retention ∧
           f.b6 = r.stepTime ∧ f.b7.toNat = (allDomains.filter fun e => s.railOf e = v).length)) ∧
     (s.Awaits p (.readPoint p d page) rest →
       let c := s.config d
       (∀ l : Level, page.toNat = l → exec (.readPoint p d page) s = .next (s.answered p rest
         ⟨0x00, 0x22, if (s.point d l).valid then 1 else 0, (s.point d l).clock, (s.point d l).volt, 0, 0, 0⟩)) ∧
       (page = 16 → exec (.readPoint p d page) s = .next (s.answered p rest
         ⟨0x00, 0x22, byte c.rest, byte c.safe, byte c.floorLimit, byte c.ceilingLimit, byte c.rail, 0⟩)) ∧
       (page = 17 → exec (.readPoint p d page) s = .next (s.answered p rest
         ⟨0x00, 0x22, match c.throttleLine with
           | none => 0
           | some .thr0 => 1
           | some .thr1 => 2, byte c.throttleLevel, if c.park then 1 else 0, c.window,
           if c.policy = .park then 1 else 0, 0⟩)) ∧
       (page = 18 → exec (.readPoint p d page) s = .next (s.answered p rest
         ⟨0x00, 0x22, c.lockCount, c.gateCount, 0, 0, 0, 0⟩)) ∧
       (page.toNat > 18 → exec (.readPoint p d page) s = .next (s.answered p rest (refusal 0x12 0x22))))) ∧
  ([Governing.rest, .demand, .cap, .limitFloor, .limitCeiling, .throttle, .force].map Governing.number =
    [0, 1, 2, 3, 4, 5, 6]) ∧
  ([DomainState.steady, .raising, .stepping, .consent, .parking, .parked, .frozen, .off].map DomainState.number =
    [0, 1, 2, 3, 4, 5, 7, 8]) ∧
  (∀ c : DomainState, (∀ stage, c ≠ .waking stage) → c.stageNumber = 0) ∧
  ([WakeStage.rail, .gate, .clock].map fun stage => (DomainState.waking stage).stageNumber) = [1, 2, 3] ∧
  (∀ stage, (DomainState.waking stage).number = 6) ∧
  ([DomainCause.none, .rail, .clock].map DomainCause.number = [0, 1, 2]) ∧
  ([RailState.steady, .raising, .lowering, .retention, .fallback, .held, .shutdown].map RailState.number =
    [0, 1, 2, 3, 4, 5, 6]) ∧
  ([RailCause.none, .nak, .noReply, .pgLow, .pgFall].map RailCause.number = [0, 1, 2, 3, 4]) ∧
  ([Status.pending, .inForce, .clamped, .held].map Status.number = [0, 1, 2, 3]) ∧
  DemandClass.floor.number = 0 ∧ DemandClass.cap.number = 1 ∧
  (Command.none.tryNumber, Command.none.codeByte, Command.none.indication) = (0, 0xFF, 0) ∧
  ∀ code : Byte,
    ((Command.queued code).tryNumber, (Command.queued code).codeByte, (Command.queued code).indication) =
      (0, code, 1) ∧
    ∀ tries n, ∀ c ∈ [Command.outstanding code tries .awaitingReply, .outstanding code tries (.settling n)],
      c.codeByte = code ∧ c.tryNumber = (if tries = .one then 1 else 2) ∧
      c.indication = if c = .outstanding code tries .awaitingReply then 2 else 3

/-! ### Resolution -/

/-- Steps 1 to 2c of resolution: the force, or else the highest of the rest level and the FLOORs, lowered to the
lowest CAP, held within the limits; with the governing source of each (R27 to R30). -/
def Obligations.ResolutionBaseAndSource : Prop :=
  ∀ (s : State) (d : DomainId),
    (∀ l, (s.domain d).force = some l → s.base d = (l, .force)) ∧
    ((s.domain d).force = none → ∃ (top : Level) (capped : Level) (source : Governing),
      (s.config d).rest ≤ top ∧
      (∀ h, ∀ r ∈ s.record h, r.domain = d → r.cls = .floor → r.level ≤ top) ∧
      (top = (s.config d).rest ∨ ∃ h, ∃ r ∈ s.record h, r.domain = d ∧ r.cls = .floor ∧ r.level = top) ∧
      ((∀ h, ∀ r ∈ s.record h, r.domain = d → r.cls = .cap → top ≤ r.level) → capped = top ∧
        source = if (s.config d).rest < top then .demand else .rest) ∧
      ((∃ h, ∃ r ∈ s.record h, r.domain = d ∧ r.cls = .cap ∧ r.level < top) → source = .cap ∧
        (∃ h, ∃ r ∈ s.record h, r.domain = d ∧ r.cls = .cap ∧ r.level = capped) ∧
        ∀ h, ∀ r ∈ s.record h, r.domain = d → r.cls = .cap → capped ≤ r.level) ∧
      s.base d = if capped < (s.config d).floorLimit then ((s.config d).floorLimit, .limitFloor)
        else if (s.config d).ceilingLimit < capped then ((s.config d).ceilingLimit, .limitCeiling)
        else (capped, source))

/-- Steps 3 and 4: the throttle lowers the base, and the target is the result where it is valid, else the lowest valid
entry above it within the effective ceiling, else the highest valid entry below it; while the line followed is
asserted the target is not above the throttle level (R31, R32). -/
def Obligations.ThrottleAndRounding : Prop :=
  ∀ (s : State) (d : DomainId), (s.point d 0).valid = true →
    let asserted : Prop := (s.config d).throttleLine ≠ none ∧ (s.domain d).throttled = true
    ∃ (result ceiling : Level),
      (asserted → (s.config d).throttleLevel < (s.base d).1 →
        result = (s.config d).throttleLevel ∧ (s.resolution d).2 = .throttle) ∧
      (¬asserted ∨ (s.base d).1 ≤ (s.config d).throttleLevel →
        result = (s.base d).1 ∧ (s.resolution d).2 = (s.base d).2) ∧
      ((s.domain d).force = none → asserted →
        ceiling = min (s.config d).ceilingLimit (s.config d).throttleLevel) ∧
      ((s.domain d).force = none → ¬asserted → ceiling = (s.config d).ceilingLimit) ∧
      ((s.domain d).force ≠ none → asserted → ceiling = (s.config d).throttleLevel) ∧
      ((s.domain d).force ≠ none → ¬asserted → ceiling = 15) ∧
      ((s.point d result).valid = true → (s.resolution d).1 = result) ∧
      ((s.point d result).valid = false →
        (∃ l, result < l ∧ l ≤ ceiling ∧ (s.point d l).valid = true) →
          (result < (s.resolution d).1 ∧ (s.resolution d).1 ≤ ceiling ∧ (s.point d (s.resolution d).1).valid = true ∧
            ∀ l, result < l → (s.point d l).valid = true → (s.resolution d).1 ≤ l)) ∧
      ((s.point d result).valid = false →
        (¬∃ l, result < l ∧ l ≤ ceiling ∧ (s.point d l).valid = true) →
          ((s.resolution d).1 < result ∧ (s.point d (s.resolution d).1).valid = true ∧
            ∀ l, l < result → (s.point d l).valid = true → l ≤ (s.resolution d).1)) ∧
      (s.point d (s.resolution d).1).valid = true ∧
      (asserted → (s.resolution d).1 ≤ (s.config d).throttleLevel)

/-- A re-resolution leaves the target and the governing source at the result and the quiet timer as its four conditions
have it, and touches nothing but its domain, its rail, the park controller, and the records of the domain with the sets of
their owners (R26, R33, R34, R65, R78). -/
def Obligations.ResolvingTouchesOneDomain : Prop :=
  ∀ (s : State) (d : DomainId),
    ((s.reresolve d).domain d).target = (s.resolution d).1 ∧
    ((s.reresolve d).domain d).source = (s.resolution d).2 ∧
    ((s.reresolve d).domain d).current = (s.domain d).current ∧
    ((s.reresolve d).domain d).cause = (s.domain d).cause ∧
    (s.reresolve d).resolution d = s.resolution d ∧
    s.QuietTimerFollows (s.reresolve d) d ∧
    s.DomainFrame d (s.reresolve d)

/-- What a domain does on a resolution, by its state: it plans from STEADY and, where the target changed, from
RAISING; it does not redirect a step; it withdraws from CONSENT and wakes from PARKED for a FLOOR or a force; a wake
follows the target; in PARKING, FROZEN and OFF it does not move (R34, R66, R68, R72, R77, Table 4-5, R116, R118,
R121). It places the notices of its evaluation where it settles or stays PARKED, and no others (R37, R38, R41). At a
withdrawal the others in the consent queue keep their order, and the channel, once free, serves the next (R108, R114).
That a RAISING domain whose target has not changed stays is the model's reading (notes/assumptions/26.md); that one in
the RAIL stage then still compares with the assured code is its choice (notes/assumptions/31.md). -/
def Obligations.ResolutionActsByState : Prop :=
  ∀ (s : State) (d : DomainId), s.MovesSound →
    let c := s.domain d
    let target := (s.resolution d).1
    let t := s.reresolve d
    (c.state = .steady ∨ c.state = .raising ∧ target ≠ c.target ∨ c.state = .consent ∧ s.wanted d = true →
      s.PlansTo t d c.current target ∧ s.Told t (s.planNotices d c.current target)) ∧
    (c.state = .parked ∧ s.wanted d = false → s.Told t (s.parkedNotices d)) ∧
    (¬(c.state = .steady ∨ c.state = .raising ∧ target ≠ c.target ∨ c.state = .consent ∧ s.wanted d = true) →
      ¬(c.state = .parked ∧ s.wanted d = false) → t.boxes = s.boxes) ∧
    (c.state = .consent ∧ s.wanted d = true → t.park = s.parkWithout (· = d) ∧ d ∉ t.park.queue) ∧
    (¬(c.state = .consent ∧ s.wanted d = true) → t.park = s.park) ∧
    (c.state = .raising → target = c.target → (t.domain d).state = .raising ∧
      (t.domain d).need = some (s.code d target)) ∧
    (c.state = .stepping → (t.domain d).state = .stepping ∧ (t.domain d).step = c.step ∧
      (t.domain d).strobe = c.strobe ∧ (t.domain d).lockTimer = c.lockTimer) ∧
    (c.state = .consent → s.wanted d = false → (t.domain d).state = .consent ∧
      (t.domain d).need = some (s.code d c.current)) ∧
    (c.state = .parking → (t.domain d).state = .parking ∧ (t.domain d).gateTimer = c.gateTimer ∧
      (t.domain d).need = none) ∧
    (c.state = .parked → s.wanted d = true → s.WakesTo t d target ∧
      ∀ h, ∀ r ∈ s.record h, r.domain = d → ∃ q, t.record h = some q ∧ q.status = r.unsettled.status) ∧
    (c.state = .parked → s.wanted d = false → (t.domain d).state = .parked ∧ (t.domain d).need = none ∧
      ∀ h, ∀ r ∈ s.record h, r.domain = d → t.record h = some r.evaluatedParked) ∧
    (c.state = .waking .rail → s.WakesTo t d target) ∧
    (c.state = .waking .gate → (t.domain d).state = .waking .gate ∧ (t.domain d).gateTimer = c.gateTimer ∧
      (t.domain d).need = some (s.code d target)) ∧
    (c.state = .waking .clock → (t.domain d).state = .waking .clock ∧ (t.domain d).step = c.step ∧
      ∀ l, c.step = some l → (t.domain d).need = some (higherCode (s.code d l) (s.code d target))) ∧
    (c.state = .frozen ∨ c.state = .off → (t.domain d).state = c.state ∧ (t.domain d).step = c.step ∧
      (t.domain d).gated = c.gated ∧ (t.domain d).lockTimer = c.lockTimer)

/-- An evaluation of a settled domain gives every record on it its status, acknowledges the generation of those
IN_FORCE, and places IN_FORCE or CLAMPED, in ascending order of handle, where the last settled status differs. One of a
PARKED domain makes every CAP on it IN_FORCE, and places IN_FORCE in the same way. Neither touches anything else (R37,
R38, R41, R42, R142). -/
def Obligations.EvaluationJudgesTheRecords : Prop :=
  ∀ (s : State) (d : DomainId),
    let t := s.evaluateSettled d
    let u := s.evaluateParked d
    let current := (s.domain d).current
    (∀ h, t.record h = (s.record h).map fun r => if r.domain = d then r.evaluatedAt current else r) ∧
    (∀ p, t.box p = (s.live.filterMap fun x =>
        if x.2.domain = d ∧ x.2.owner = p ∧ (x.2.evaluatedAt current).lastSettled ≠ x.2.lastSettled then
          some (if (x.2.evaluatedAt current).status = .inForce then
            Notice.inForce x.1 x.2.tag x.2.generation current
          else Notice.clamped x.1 x.2.tag x.2.generation current)
        else none).foldl Box.place (s.box p)) ∧
    t = { s with records := t.records, boxes := t.boxes } ∧
    (∀ h, u.record h = (s.record h).map fun r => if r.domain = d then r.evaluatedParked else r) ∧
    (∀ p, u.box p = (s.live.filterMap fun x =>
        if x.2.domain = d ∧ x.2.owner = p ∧ x.2.cls = .cap ∧ x.2.lastSettled ≠ some .inForce then
          some (Notice.inForce x.1 x.2.tag x.2.generation current)
        else none).foldl Box.place (s.box p)) ∧
    u = { s with records := u.records, boxes := u.boxes }

/-! ### The events of the domain controllers -/

/-- A domain controller takes a report on its way to it and re-resolves (R9, R33); that the oldest is taken is the model's
reading (notes/assumptions/11.md), and that nothing changes without a report the model's choice (notes/assumptions/3.md).
An edge of a throttle line sets the line level of every domain that follows it, each of which re-resolves and acts by its
state, and reaches no other domain; the order of the domains is free (R31, R34; notes/assumptions/6.md). -/
def Obligations.ReportsAndThrottleEdgesResolve : Prop :=
  ∀ (s : State),
    (∀ d before r after, s.reports = before ++ r :: after → (∀ q ∈ before, q.domain ≠ d) → r.domain = d →
      exec (.recordReport d) s = .next (State.reresolve { s with reports := before ++ after } d)) ∧
    (∀ d, (∀ r ∈ s.reports, r.domain ≠ d) → exec (.recordReport d) s = .next s) ∧
    ∀ line rising, s.thr line ≠ rising →
      ∃ t : State, exec (.throttleEdge line rising) s = .next t ∧ t.thr line = rising ∧
        (∀ other, other ≠ line → t.thr other = s.thr other) ∧ t.pins.pg = s.pins.pg ∧
        t.pins.cgrant = s.pins.cgrant ∧ t.pins.cdeny = s.pins.cdeny ∧ t.setups = s.setups ∧
        (∀ d, (s.config d).throttleLine ≠ some line → t.domain d = s.domain d) ∧
        ∀ d, (s.config d).throttleLine = some line →
          t.domain d = (State.reresolve (s.setDomain d { s.domain d with throttled := rising }) d).domain d ∧
          (t.domain d).throttled = rising ∧ (t.domain d).force = (s.domain d).force ∧
          (t.domain d).target = (t.resolution d).1 ∧ (t.domain d).source = (t.resolution d).2

/-- The bus carries a pending strobe: a step strobe with the domain number and the clock code, which starts the lock
timer with the lock timeout as it stands, a stop strobe with 12 and the domain number, which starts none (R69, R70,
R110). A step strobe that outlives its step is the model's reading (notes/assumptions/23.md), and that nothing changes
without a pending strobe is its choice (notes/assumptions/3.md). -/
def Obligations.StrobesAreDriven : Prop :=
  ∀ (s : State) (d : DomainId),
    (∀ clock, (s.domain d).strobe = some (.step clock) → (s.domain d).step ≠ none →
      exec (.strobeDriven d) s = .next { s.setDomain d { s.domain d with
          strobe := none, lockTimer := some ((s.config d).lockCount.toNat * 10) } with
        bus := some { ckdom := BitVec.ofNat 4 d, ckcode := clock } }) ∧
    (∀ clock, (s.domain d).strobe = some (.step clock) → (s.domain d).step = none →
      exec (.strobeDriven d) s = .next { s.setDomain d { s.domain d with strobe := none } with
        bus := some { ckdom := BitVec.ofNat 4 d, ckcode := clock } }) ∧
    ((s.domain d).strobe = some .stop →
      exec (.strobeDriven d) s = .next { s.setDomain d { s.domain d with strobe := none } with
        bus := some { ckdom := 12, ckcode := BitVec.ofNat 8 d } }) ∧
    ((s.domain d).strobe = none → exec (.strobeDriven d) s = .next s)

/-- A rising edge of LOCK completes a step whose strobe has been driven: the current level becomes the step level, a
freezing step leaves the domain FROZEN, with the fallback code of its rail queued once every domain on it is frozen in
place, and any other leaves it in STEADY to settle, with its notices, or plan; without a step, or with the strobe still
pending, nothing changes (R41, R70, R71, R74, R75, R120, R127, R129). -/
def Obligations.LockCompletesTheStep : Prop :=
  ∀ (s : State) (d : DomainId), s.MovesSound →
    ((s.domain d).step = none ∨ (s.domain d).strobe ≠ none → exec (.lockRise d) s = .next s) ∧
    ∀ l, (s.domain d).step = some l → (s.domain d).strobe = none →
      ∃ t : State, exec (.lockRise d) s = .next t ∧ s.DomainFrame d t ∧ (t.domain d).current = l ∧
        (t.domain d).target = (s.domain d).target ∧ (t.domain d).lockTimer = none ∧
        ((s.domain d).state = .stepping ∨ (s.domain d).state = .waking .clock →
          s.PlansTo t d l (s.domain d).target ∧ s.Told t (s.planNotices d l (s.domain d).target) ∧
          ((s.domain d).target = l → (t.domain d).step = none)) ∧
        ((s.domain d).state = .frozen → (t.domain d).state = .frozen ∧ (t.domain d).gated = false ∧
          (t.domain d).step = none ∧ (t.domain d).need = some (s.code d l) ∧ t.records = s.records ∧
          t.boxes = s.boxes ∧ s.FallbackFollows t (s.railOf d)) ∧ t.park = s.park

/-- The lock timer of an ordinary step or of a wake's CLOCK stage runs out: a CLOCK fault, with CLOCK_FAULT(d) and the
DOMAIN_HELD notices raised and every record HELD. That of a freezing step runs out: FROZEN gated with the cause kept,
CLOCK_FAULT(d) raised, and the fallback code of its rail queued once every domain on it is frozen in place (R73, R127,
R129). -/
def Obligations.LockTimeoutsGateTheDomain : Prop :=
  ∀ (s : State) (d : DomainId), (s.domain d).lockTimer ≠ none →
    let c := s.domain d
    let gatedAs (t : State) : Prop := (t.domain d).state = .frozen ∧ (t.domain d).gated = true ∧
      (t.domain d).settled = false ∧ (t.domain d).step = none ∧ (t.domain d).lockTimer = none ∧
      (t.domain d).quietTimer = none ∧ (t.domain d).need = none ∧ (t.domain d).current = c.current ∧
      (t.domain d).target = c.target
    (c.state = .stepping ∨ c.state = .waking .clock →
      ∃ t : State, exec (.lockTimeout d) s = .next t ∧ gatedAs t ∧ (t.domain d).cause = .clock ∧
        State.DomainFrame d { s with raised := t.raised } t ∧ t.boxes = s.boxes ∧
        (∀ h, ∀ r ∈ s.record h, r.domain = d → t.record h = some { r with status := .held }) ∧
        t.raised = s.raised ++ [(supervisor, Notice.clockFault d) ::
          ((List.finRange 9).filter fun p => s.live.any fun x => x.2.domain = d ∧ x.2.owner = p).map
            fun p => (p, Notice.domainHeld d)]) ∧
    (c.state = .frozen → c.step ≠ none →
      ∃ t : State, exec (.freezingLockTimeout d) s = .next t ∧ gatedAs t ∧ (t.domain d).cause = c.cause ∧
        State.DomainFrame d { s with raised := t.raised } t ∧ t.boxes = s.boxes ∧ t.records = s.records ∧
        t.raised = s.raised ++ [[(supervisor, .clockFault d)]] ∧ s.FallbackFollows t (s.railOf d))

/-- A change of the assured code moves a domain in RAISING that it covers to STEPPING and one in the RAIL stage that
it covers to the GATE stage, and calls for nothing else (R67, R83, Table 4-6, R118, R119). The flag of a change on
its way is the model's form (notes/assumptions/17.md). -/
def Obligations.AssuredCodeReleasesTheWaiting : Prop :=
  ∀ (s : State) (d : DomainId), s.MovesSound → s.NeedsSound → (s.domain d).assuredNews = true →
    let c := s.domain d
    let a := s.assured (s.railOf d)
    ∃ t : State, exec (.assuredCodeChange d) s = .next t ∧ s.DomainFrame d t ∧ (t.domain d).assuredNews = false ∧
      t.records = s.records ∧ t.boxes = s.boxes ∧ t.park = s.park ∧
      (c.state = .raising → s.code d c.target ≤ a →
        (t.domain d).state = .stepping ∧ (t.domain d).step = some c.target ∧ (t.domain d).lockTimer = none ∧
        (t.domain d).strobe = some (.step (s.point d c.target).clock) ∧
        (t.domain d).need = some (higherCode (s.code d c.current) (s.code d c.target))) ∧
      (c.state = .waking .rail → s.WakesTo t d c.target) ∧
      (¬(c.state = .raising ∧ s.code d c.target ≤ a) → c.state ≠ .waking .rail →
        t = s.setDomain d { c with assuredNews := false })

/-! ### Parking, consent and waking -/

/-- The quiet timer runs out: the domain enters CONSENT, its records stop being settled, and it joins the tail of
the queue, or its request is sent at once where the channel is free (R79, R107, R108). That the timer runs out
whenever it runs is the model's choice (notes/assumptions/2.md), here and in the other timer statements. -/
def Obligations.QuietExpiryAsksForConsent : Prop :=
  ∀ (s : State) (d : DomainId), s.MovesSound → s.ConsentSound → (s.domain d).quietTimer ≠ none →
    ∃ t : State, exec (.quietTimerExpiry d) s = .next t ∧ s.DomainFrame d t ∧ t.boxes = s.boxes ∧
      (t.domain d).state = .consent ∧ (t.domain d).settled = false ∧ (t.domain d).quietTimer = none ∧
      (t.domain d).current = (s.domain d).current ∧ (t.domain d).gated = false ∧
      (t.domain d).need = some (s.code d (s.domain d).current) ∧
      (∀ h, ∀ r ∈ s.record h, r.domain = d → t.record h = some r.unsettled) ∧
      (s.park.request = none → s.pins.cgrant = false → s.pins.cdeny = false → s.park.queue = [] →
        t.park = { s.park with request := some (d, s.park.timeout.toNat * 100), cdom := BitVec.ofNat 4 d }) ∧
      (s.park.request ≠ none ∨ s.pins.cgrant = true ∨ s.pins.cdeny = true →
        t.park = { s.park with queue := s.park.queue ++ [d] })

/-- A rising edge of CGRANT or CDENY while a request is outstanding ends it and decides its domain, also where the edge
was meant for a request that has ended and the next one is outstanding (by the model's choice, notes/assumptions/30.md):
PARKING with the stop strobe due and GATE closed, or STEADY and a plan (R109 to R111). The consent timer runs out:
CONSENT_SILENT(d) goes to S and the silence policy, as it stands, decides as a grant or a deny; the channel, where both
lines are low, serves the next domain (R108, R112). A deny, and the policy STAY, start the quiet timer where the domain
settles (R111). The record notices of an evaluation come behind CONSENT_SILENT, which is placed in the event (R142;
DEDUCED, notes/assumptions/10.md). -/
def Obligations.ConsentIsDecided : Prop :=
  (∀ (s : State) (d : DomainId) (n : Nat), s.MovesSound → s.ConsentSound → s.park.request = some (d, n) →
     (s.pins.cgrant = false → ∃ t : State, exec .cgrantRise s = .next t ∧
       t.pins = { s.pins with cgrant := true } ∧ State.DomainFrame d { s with pins := t.pins } t ∧
       t.park = { s.park with request := none } ∧ t.records = s.records ∧ t.boxes = s.boxes ∧
       (t.domain d).state = .parking ∧ (t.domain d).strobe = some .stop ∧ (t.domain d).gated = true ∧
       (t.domain d).gateTimer = some ((s.config d).gateCount.toNat * 10) ∧ (t.domain d).need = none ∧
       (t.domain d).current = (s.domain d).current ∧ (t.domain d).step = none) ∧
     (s.pins.cdeny = false → ∃ t : State, exec .cdenyRise s = .next t ∧
       t.pins = { s.pins with cdeny := true } ∧ State.DomainFrame d { s with pins := t.pins } t ∧
       t.park = { s.park with request := none } ∧ s.PlansTo t d (s.domain d).current (s.domain d).target ∧
       s.Told t (s.planNotices d (s.domain d).current (s.domain d).target))) ∧
  (∀ (s : State) (d : DomainId) (n : Nat), s.MovesSound → s.ConsentSound → s.park.request = some (d, n) →
     let told := s.setBox supervisor ((s.box supervisor).place (.consentSilent d))
     ∃ t : State, exec .consentTimeout s = .next t ∧ told.DomainFrame d t ∧
       ((s.config d).policy = .park → t.boxes = told.boxes ∧
         (t.domain d).state = .parking ∧ (t.domain d).strobe = some .stop ∧ (t.domain d).gated = true ∧
         (t.domain d).gateTimer = some ((s.config d).gateCount.toNat * 10) ∧ (t.domain d).need = none) ∧
       ((s.config d).policy = .stay → s.PlansTo t d (s.domain d).current (s.domain d).target ∧
         t.boxes = (if (s.domain d).target = (s.domain d).current then told.evaluateSettled d else told).boxes) ∧
       (s.pins.cgrant = true ∨ s.pins.cdeny = true ∨ s.park.queue = [] →
         t.park = { s.park with request := none }) ∧
       (∀ e queue, s.pins.cgrant = false → s.pins.cdeny = false → s.park.queue = e :: queue →
         t.park = { s.park with
           queue := queue, request := some (e, s.park.timeout.toNat * 100), cdom := BitVec.ofNat 4 e }))

/-- An answer edge without an outstanding request changes only its line; a falling edge may free the channel, and then
the head of the queue is sent with the consent timeout as it stands (R108, R109). -/
def Obligations.AnswerLinesHoldTheChannel : Prop :=
  ∀ (s : State),
    (s.park.request = none → s.pins.cgrant = false →
      exec .cgrantRise s = .next { s with pins := { s.pins with cgrant := true } }) ∧
    (s.park.request = none → s.pins.cdeny = false →
      exec .cdenyRise s = .next { s with pins := { s.pins with cdeny := true } }) ∧
    (∀ line, (line = .cgrant → s.pins.cgrant = true) → (line = .cdeny → s.pins.cdeny = true) →
      let pins := match line with
        | AnswerLine.cgrant => { s.pins with cgrant := false }
        | .cdeny => { s.pins with cdeny := false }
      (s.park.request ≠ none ∨ pins.cgrant = true ∨ pins.cdeny = true ∨ s.park.queue = [] →
        exec (.consentLineFall line) s = .next { s with pins := pins }) ∧
      (∀ d queue, s.park.request = none → pins.cgrant = false → pins.cdeny = false → s.park.queue = d :: queue →
        exec (.consentLineFall line) s = .next { s with
          pins := pins
          park := { s.park with
            queue := queue, request := some (d, s.park.timeout.toNat * 100), cdom := BitVec.ofNat 4 d } }))

/-- The gate settle timer runs out: a domain in PARKING wakes with a FLOOR or a force and else is PARKED with its CAPs
evaluated and their notices placed; one in the GATE stage enters the CLOCK stage with its step, or returns to the RAIL
stage where its rail does not cover the target (R38, R41, R115, R116, R118 to R120), with no stop strobe, by the model's
choice (notes/assumptions/28.md). -/
def Obligations.GateSettleExpiryParksOrWakes : Prop :=
  ∀ (s : State) (d : DomainId), s.MovesSound → (s.domain d).gateTimer ≠ none →
    let c := s.domain d
    (c.state = .parking → ∃ t : State, exec (.gateSettleExpiry d) s = .next t ∧ s.DomainFrame d t ∧ t.park = s.park ∧
      (s.wanted d = true → s.WakesTo t d c.target ∧ t.boxes = s.boxes ∧
        ∀ h, ∀ r ∈ s.record h, r.domain = d → t.record h = some r.unsettled) ∧
      (s.wanted d = false → (t.domain d).state = .parked ∧ (t.domain d).gated = true ∧
        (t.domain d).gateTimer = none ∧ (t.domain d).need = none ∧ (t.domain d).current = c.current ∧
        s.Told t (s.parkedNotices d) ∧
        ∀ h, ∀ r ∈ s.record h, r.domain = d → t.record h = some r.evaluatedParked)) ∧
    (c.state = .waking .gate → ∃ t : State, exec (.wakeGateSettleExpiry d) s = .next t ∧ s.DomainFrame d t ∧
      t.records = s.records ∧ t.boxes = s.boxes ∧ t.park = s.park ∧ (t.domain d).gateTimer = none ∧
      (s.assured (s.railOf d) < s.code d c.target →
        (t.domain d).state = .waking .rail ∧ (t.domain d).gated = true ∧
        (t.domain d).need = some (s.code d c.target)) ∧
      (s.code d c.target ≤ s.assured (s.railOf d) →
        (t.domain d).state = .waking .clock ∧ (t.domain d).gated = false ∧ (t.domain d).step = some c.target ∧
        (t.domain d).strobe = some (.step (s.point d c.target).clock) ∧
        (t.domain d).need = some (s.code d c.target)))

/-! ### Rails and the regulator link -/

/-- The required code of Table 5-2 (R85). -/
def Obligations.RequiredCodeOfARail : Prop :=
  ∀ (s : State) (v : RailId),
    ((∀ d, s.railOf d = v → (s.domain d).state = .parked) → s.requiredCode v = (s.rail v).retention) ∧
    ((∃ d, s.railOf d = v ∧ (s.domain d).state ≠ .parked) →
      ((∀ d, s.railOf d = v → (s.domain d).need = none) → s.requiredCode v = (s.rail v).min) ∧
      (∀ d code, s.railOf d = v → (s.domain d).need = some code →
        (∀ e, s.railOf e = v → ∀ n ∈ (s.domain e).need, n ≤ code) → (s.rail v).min ≤ (s.rail v).max →
        s.requiredCode v =
          if code < (s.rail v).min then (s.rail v).min
          else if (s.rail v).max < code then (s.rail v).max
          else code))

/-- A re-evaluation of a rail outside fault handling applies the command rule and takes the state of Table 5-3; in
FALLBACK, HELD and SHUTDOWN only the required code follows (R86 to R88). That the state is that of Table 5-3 also
where the required code has not changed is the model's reading (notes/assumptions/22.md). -/
def Obligations.CommandRuleAndRailState : Prop :=
  ∀ (s : State) (v : RailId),
    let r := s.rail v
    let t := s.reevaluate v
    (∀ w, w ≠ v → t.rail w = s.rail w) ∧ t = { s with rails := t.rails, link := t.link } ∧
    (r.faulted = true → t.rail v = { r with required := s.requiredCode v } ∧ t.link = s.link) ∧
    (r.faulted = false →
      t.rail v = { r with
        required := s.requiredCode v, command := (t.rail v).command, state := (t.rail v).state } ∧
      (∀ code tries phase, r.command = .outstanding code tries phase → (t.rail v).command = r.command ∧
        (r.confirmed < code → (t.rail v).state = .raising) ∧ (code < r.confirmed → (t.rail v).state = .lowering)) ∧
      ((∀ code tries phase, r.command ≠ .outstanding code tries phase) →
        (s.requiredCode v = r.confirmed → (t.rail v).command = .none ∧
          ((t.rail v).state = .retention ↔
            r.confirmed = r.retention ∧ ∀ d, s.railOf d = v → (s.domain d).state = .parked) ∧
          ((t.rail v).state ≠ .retention → (t.rail v).state = .steady)) ∧
        (s.requiredCode v ≠ r.confirmed → (t.rail v).command = .queued (s.requiredCode v) ∧
          (r.confirmed < s.requiredCode v → (t.rail v).state = .raising) ∧
          (s.requiredCode v < r.confirmed → (t.rail v).state = .lowering))))

/-- The link controller chooses, when it becomes free with rails waiting, the first waiting rail after the last served
in the order V0, V1, V2, V3, V0, and so at the end of the reset hold (R89, R90); that the choice is held until
LINK_SEND is the model's form of it (notes/assumptions/13.md). The chosen rail's queued code is sent: it becomes
outstanding at try 1 awaiting its reply, the transfer bit toggles, the frame of Table 10-11 goes out, the reply timer
starts at 100 µs, the rail is the last served, and a lower code drops the assured code of its domains (R90, R91,
R162). -/
def Obligations.LinkServesTheRotation : Prop :=
  (∀ (s : State), s.link.elected = none →
     (s.linkBusy = false →
       ((s.chooseRail.link.elected = none ↔ ∀ v, s.waiting v = false) ∧
       (∀ v, s.chooseRail.link.elected = some v → s.waiting v = true ∧
         ∀ w, s.waiting w = true → v - s.link.lastServed - 1 ≤ w - s.link.lastServed - 1) ∧
       s.chooseRail = { s with link := { s.link with elected := s.chooseRail.link.elected } })) ∧
     (s.link.resetHold ≠ none → exec .resetHoldEnd s =
       .next (State.chooseRail { s with link := { s.link with resetHold := none } }))) ∧
  (∀ (s : State) (v : RailId) (code : Byte), s.linkBusy = false → s.link.elected = some v →
     (s.rail v).command = .queued code →
     ∃ t : State, exec .linkSend s = .next t ∧
       t.rail v = { s.rail v with command := .outstanding code .one .awaitingReply } ∧
       (∀ w, w ≠ v → t.rail w = s.rail w) ∧
       t.link = {
         transfer := some { rail := v, code := code, tries := .one, bit := !s.link.bit, disregarded := false }
         replyTimer := some 100, lastServed := v, bit := !s.link.bit, resetHold := none, elected := none
         frame := some (BitVec.ofNat 8 (80 + (if s.link.bit then 0 else 4) + v.val), code) } ∧
       t = { s with rails := t.rails, link := t.link, domains := t.domains } ∧
       ∀ d, t.domain d = { s.domain d with
         assuredNews := (s.domain d).assuredNews || (s.railOf d = v && decide (code < (s.rail v).confirmed)) })

/-- A reply byte is dropped without effect where no transfer awaits one, its bits 7 to 4 are not 1010b, or its
address or transfer bit is not that of the transfer (R92, R162). The outcome of a try that its rail wants: an ACK of
a raise sets the settle deadline; an ACK of a lower, or of a fallback code not above the confirmed one, succeeds
with PG high and fails with PG low; a NAK or a reply timeout sends the code again as try 2, or fails the command.
The outcome of a disregarded transfer only frees the link (R91 to R97, R129). The level of PG is the command's
operand (notes/assumptions/15.md). -/
def Obligations.RepliesAndTimeoutsEndATry : Prop :=
  (∀ (s : State) (reply : Byte) (pg : Bool),
     s.link.transfer = none ∨ reply.toNat / 16 ≠ 10 ∨
       (∃ t, s.link.transfer = some t ∧ (reply.toNat % 4 ≠ t.rail ∨ reply.getLsbD 2 ≠ t.bit)) →
     exec (.regulatorReply reply pg) s = .next s) ∧
  (∀ (s : State) (x : Transfer) (reply : Byte) (pg : Bool), s.link.transfer = some x → s.link.replyTimer ≠ none →
     let ended : State := { s with link := { s.link with transfer := none, replyTimer := none } }
     let read := ended.samplePg x.rail pg
     let again (u : State) : State :=
       { u.setRail x.rail { u.rail x.rail with command := .outstanding x.code .two .awaitingReply } with
         link := { u.link with
           transfer := some { rail := x.rail, code := x.code, tries := .two, bit := !s.link.bit, disregarded := false }
           replyTimer := some 100, bit := !s.link.bit
           frame := some (BitVec.ofNat 8 (80 + (if s.link.bit then 0 else 4) + x.rail.val), x.code), elected := none } }
     let r := s.rail x.rail
     (reply.toNat / 16 = 10 → reply.toNat % 4 = x.rail → reply.getLsbD 2 = x.bit →
       (x.disregarded = true → exec (.regulatorReply reply pg) s = .next read.chooseRail) ∧
       (x.disregarded = false → reply.getLsbD 3 = true →
         (r.confirmed < x.code → s.assured x.rail = r.confirmed → exec (.regulatorReply reply pg) s =
           .next (read.setRail x.rail { r with
             command := .outstanding x.code x.tries
               (.settling ((x.code.toNat - r.confirmed.toNat) * r.stepTime.toNat + 25)) }).chooseRail) ∧
         (x.code ≤ r.confirmed → pg = true → exec (.regulatorReply reply pg) s =
           .next (State.noteAssured x.rail s (read.commandSucceeds x.rail x.code).chooseRail)) ∧
         (x.code ≤ r.confirmed → pg = false → exec (.regulatorReply reply pg) s =
           .next (State.noteAssured x.rail s (read.commandFails x.rail .pgLow).chooseRail))) ∧
       (x.disregarded = false → reply.getLsbD 3 = false →
         (x.tries = .one → (∃ tries phase, r.command = .outstanding x.code tries phase) →
           exec (.regulatorReply reply pg) s = .next (again read)) ∧
         (x.tries = .two → exec (.regulatorReply reply pg) s =
           .next (State.noteAssured x.rail s (read.commandFails x.rail .nak).chooseRail)))) ∧
     (x.disregarded = true → exec .replyTimeout s = .next ended.chooseRail) ∧
     (x.disregarded = false → x.tries = .one → (∃ tries phase, r.command = .outstanding x.code tries phase) →
       exec .replyTimeout s = .next (again ended)) ∧
     (x.disregarded = false → x.tries = .two →
       exec .replyTimeout s = .next (State.noteAssured x.rail s (ended.commandFails x.rail .noReply).chooseRail)))

/-- At a raise's settle deadline PG decides; a command that succeeds confirms its code, and a rail in FALLBACK then
is in HELD while any other re-evaluates, applying the command rule, and a confirmed raise is news to every domain of the
rail (R83, R96, R97, R129, R130). A fall of PG is a fault
of a rail without an outstanding command, a second failure in HELD, and otherwise changes nothing but the level read
(R98, R125, R130, R131). The level of PG is the command's operand (notes/assumptions/15.md). -/
def Obligations.PgDecidesAtDeadlinesAndFalls : Prop :=
  (∀ (s : State) (v : RailId) (pg : Bool) (code : Byte) (tries : Try) (deadline : Nat),
     (s.rail v).command = .outstanding code tries (.settling deadline) →
     (pg = true → exec (.settleDeadline v pg) s =
       .next (State.noteAssured v s ((s.samplePg v pg).commandSucceeds v code))) ∧
     (pg = false → exec (.settleDeadline v pg) s =
       .next (State.noteAssured v s ((s.samplePg v pg).commandFails v .pgLow))) ∧
     ((s.rail v).confirmed < code → pg = true → ∃ t, exec (.settleDeadline v pg) s = .next t ∧
       ∀ d, t.domain d = if s.railOf d = v then { s.domain d with assuredNews := true } else s.domain d) ∧
     ((s.commandSucceeds v code).rail v).confirmed = code ∧
     ((s.rail v).state = .fallback → ((s.commandSucceeds v code).rail v).state = .held ∧
       ((s.commandSucceeds v code).rail v).command = .none) ∧
     ((s.rail v).faulted = false → s.commandSucceeds v code =
       (s.setRail v { s.rail v with confirmed := code, command := .none }).reevaluate v)) ∧
  (∀ (s : State) (v : RailId),
     let low := s.samplePg v false
     ((s.rail v).faulted = false → (∀ code tries phase, (s.rail v).command ≠ .outstanding code tries phase) →
       exec (.pgFall v) s = .next (low.enterFallback v .pgFall)) ∧
     ((s.rail v).faulted = false → (∃ code tries phase, (s.rail v).command = .outstanding code tries phase) →
       exec (.pgFall v) s = .next low) ∧
     ((s.rail v).state = .fallback ∨ (s.rail v).state = .shutdown → exec (.pgFall v) s = .next low) ∧
     ((s.rail v).state = .held → (s.rail v).command = .none →
       exec (.pgFall v) s = .next (low.enterShutdown v .pgFall)))

/-! ### Faults -/

/-- A rail enters FALLBACK: its command is gone and a transfer of it disregarded, its confirmed code and settings
stay, RAIL_FAULT(v) and the DOMAIN_HELD notices are raised, each of its domains is frozen as Table 7-2 gives with
its records HELD and out of the consent channel, where the others keep their order and the next is served once it is
free, the fallback code is queued where all are in place, and no other rail or domain changes (R108, R114, R125 to R127,
R129, R142). The order inside the event is the model's reading (notes/assumptions/21.md). -/
def Obligations.FallbackFreezesTheRail : Prop :=
  ∀ (s : State) (v : RailId) (cause : RailCause), s.Sound → (s.rail v).faulted = false →
    let t := s.enterFallback v cause
    (t.rail v).state = .fallback ∧ (t.rail v).cause = cause ∧ (t.rail v).confirmed = (s.rail v).confirmed ∧
    t.rail v = { s.rail v with
      state := .fallback, cause := cause, required := (t.rail v).required, command := (t.rail v).command } ∧
    ((t.rail v).command = if (∀ d, s.railOf d = v → (t.domain d).inPlace = true) then
      .queued (s.rail v).fallback else .none) ∧
    (∀ w, w ≠ v → t.rail w = s.rail w) ∧
    (∀ d, s.railOf d = v → s.FrozenFrom t d ∧ d ∉ t.park.queue ∧ ∀ x ∈ t.park.request, x.1 ≠ d) ∧
    t.park = s.parkWithout (fun d => s.railOf d = v) ∧
    (∀ d, s.railOf d ≠ v → t.domain d = s.domain d) ∧
    (∀ h, t.record h = (s.record h).map fun r => if s.railOf r.domain = v then { r with status := .held } else r) ∧
    (∀ x ∈ s.link.transfer, t.link.transfer = some (if x.rail = v then { x with disregarded := true } else x)) ∧
    t.raised = s.raised ++ [(supervisor, .railFault v) :: (s.mapped v).flatMap fun d =>
      ((List.finRange 9).filter fun p => s.live.any fun x => x.2.domain = d ∧ x.2.owner = p).map
        fun p => (p, .domainHeld d)] ∧
    t = { s with
      rails := t.rails, link := t.link, park := t.park, raised := t.raised, domains := t.domains
      records := t.records }

/-- A command that fails in FALLBACK, and any other second failure, shuts the rail down: RAILEN goes low, its domains
are OFF and gated without a need, their records HELD, and RAIL_SHUTDOWN(v) and the DOMAIN_HELD notices are raised. A
command that fails outside FALLBACK is the rail's fault (R93, R96, R97, R129, R131). That a pending strobe stays due is
the model's reading (notes/assumptions/23.md). -/
def Obligations.ShutdownSwitchesTheRailOff : Prop :=
  ∀ (s : State) (v : RailId) (cause : RailCause),
    ((s.rail v).state = .fallback → s.commandFails v cause = s.enterShutdown v cause) ∧
    ((s.rail v).faulted = false → s.commandFails v cause = s.enterFallback v cause) ∧
    let t := s.enterShutdown v cause
    t.railEnable v = false ∧ (t.rail v).cause = cause ∧ (t.rail v).command = .none ∧
    (t.rail v).confirmed = (s.rail v).confirmed ∧ (∀ w, w ≠ v → t.rail w = s.rail w) ∧
    t.rail v = { s.rail v with
      state := .shutdown, cause := cause, command := .none, required := (t.rail v).required } ∧
    t = { s with
      rails := t.rails, link := t.link, raised := t.raised, domains := t.domains, records := t.records } ∧
    (∃ elected, t.link = { s.link with elected := elected }) ∧
    (∀ d, s.railOf d = v → t.domain d = { s.domain d with
      state := .off, settled := false, step := none, lockTimer := none, gateTimer := none, quietTimer := none
      need := none, cause := .rail, gated := true }) ∧
    (∀ d, s.railOf d ≠ v → t.domain d = s.domain d) ∧
    (∀ h, t.record h = (s.record h).map fun r => if s.railOf r.domain = v then { r with status := .held } else r) ∧
    t.raised = s.raised ++ [(supervisor, .railShutdown v) :: (s.mapped v).flatMap fun d =>
      ((List.finRange 9).filter fun p => s.live.any fun x => x.2.domain = d ∧ x.2.owner = p).map
        fun p => (p, .domainHeld d)]

/-- CLEAR-FAULT in rail form: refused as Table 7-3 gives; accepted in HELD, it clears the fault of the rail and of its
domains, each of which re-resolves and plans, wakes or parks, with the notices of its evaluation, and answers their number; the
rail re-evaluates, and nothing else changes (R38, R41, R86, R132 to R134). The order of the domains is free
(notes/assumptions/6.md). -/
def Obligations.ClearFaultRailFormReleases : Prop :=
  ∀ (s : State) (v : RailId) (form : Byte) (rest : List Sent),
    (s.Awaits supervisor (.clearFaultRailForm (.otherForm form)) rest →
      exec (.clearFaultRailForm (.otherForm form)) s = .next (s.answered supervisor rest (refusal 0x12 0x54))) ∧
    (s.Awaits supervisor (.clearFaultRailForm (.number v)) rest →
      let run := exec (.clearFaultRailForm (.number v)) s
      ((s.rail v).state = .fallback → run = .next (s.answered supervisor rest (refusal 0x34 0x54))) ∧
      ((s.rail v).state = .shutdown → run = .next (s.answered supervisor rest (refusal 0x35 0x54))) ∧
      ((s.rail v).faulted = false → run = .next (s.answered supervisor rest (refusal 0x33 0x54))) ∧
      (s.Sound → (s.rail v).state = .held → ∃ t : State,
        run = .next (t.answered supervisor rest ⟨0x00, 0x54, byte (s.mapped v).length, 0, 0, 0, 0, 0⟩ s) ∧
        (t.rail v).cause = .none ∧ (t.rail v).faulted = false ∧ (t.rail v).confirmed = (s.rail v).fallback ∧
        (∀ w, w ≠ v → t.rail w = s.rail w) ∧ t.raised = s.raised ∧ t.park = s.park ∧
        (t.rail v).required = t.requiredCode v ∧
        ((t.rail v).command = if (t.rail v).required = (s.rail v).fallback then .none
          else .queued (t.rail v).required) ∧
        t.rail v = { s.rail v with
          state := (t.rail v).state, cause := .none, required := (t.rail v).required, command := (t.rail v).command } ∧
        t = { s with
          rails := t.rails, link := t.link, domains := t.domains, records := t.records, boxes := t.boxes
          choices := t.choices } ∧
        (∃ elected, t.link = { s.link with elected := elected }) ∧
        (∀ h, s.record h = none → t.record h = none) ∧
        (∀ h, ∀ r ∈ s.record h, s.railOf r.domain ≠ v → t.record h = some r) ∧
        (∃ ds : List DomainId, ds.Perm (s.mapped v) ∧ s.Told t fun p => ds.flatMap fun d => s.releaseNotices d p) ∧
        (∀ d, s.railOf d ≠ v → t.domain d = s.domain d) ∧
        ∀ d, s.railOf d = v →
          (t.domain d).cause = .none ∧ (t.domain d).target = (s.resolution d).1 ∧
          (t.domain d).source = (s.resolution d).2 ∧ (t.domain d).current = (s.domain d).current ∧
          ((s.domain d).gated = false → s.PlansTo t d (s.domain d).current (s.resolution d).1) ∧
          ((s.domain d).gated = true → s.wanted d = true ∨ (s.config d).park = false →
            s.WakesTo t d (s.resolution d).1 ∧
            ∀ h, ∀ r ∈ s.record h, r.domain = d → r.status = .held → ∃ q, t.record h = some q ∧ q.status = .pending) ∧
          ((s.domain d).gated = true → s.wanted d = false → (s.config d).park = true →
            (t.domain d).state = .parked ∧ (t.domain d).gated = true ∧ (t.domain d).need = none ∧
            ∀ h, ∀ r ∈ s.record h, r.domain = d → r.cls = .cap → t.record h = some r.evaluatedParked)))

/-- CLEAR-FAULT in domain form: accepted for a domain FROZEN with cause CLOCK whose rail is not faulted, it clears the
cause, and the domain re-resolves and wakes, or parks with the notices of its evaluation; OFF is RAIL_SHUT and any other
domain NOT_FAULTED (R38, R41, R132, R135, Table 7-4). -/
def Obligations.ClearFaultDomainFormReleases : Prop :=
  ∀ (s : State) (d : DomainId) (rest : List Sent), s.MovesSound → s.Awaits supervisor (.clearFaultDomainForm d) rest →
    let c := s.domain d
    let run := exec (.clearFaultDomainForm d) s
    (c.state = .off → run = .next (s.answered supervisor rest (refusal 0x35 0x54))) ∧
    (c.state ≠ .off → ¬(c.state = .frozen ∧ c.cause = .clock) →
      run = .next (s.answered supervisor rest (refusal 0x33 0x54))) ∧
    (c.state = .frozen → c.cause = .clock → (s.rail (s.railOf d)).faulted = false → ∃ t : State,
      run = .next (t.answered supervisor rest ⟨0x00, 0x54, 1, 0, 0, 0, 0, 0⟩ s) ∧ s.DomainFrame d t ∧
      t.park = s.park ∧ (t.domain d).cause = .none ∧ (t.domain d).target = (s.resolution d).1 ∧
      (t.domain d).source = (s.resolution d).2 ∧
      s.Told t (s.releaseNotices d) ∧
      (s.wanted d = true ∨ (s.config d).park = false → s.WakesTo t d (s.resolution d).1 ∧
        ∀ h, ∀ r ∈ s.record h, r.domain = d → r.status = .held → ∃ q, t.record h = some q ∧ q.status = .pending) ∧
      (s.wanted d = false → (s.config d).park = true →
        (t.domain d).state = .parked ∧ (t.domain d).gated = true ∧ (t.domain d).need = none ∧
        ∀ h, ∀ r ∈ s.record h, r.domain = d → r.cls = .cap → t.record h = some r.evaluatedParked))

/-! ### Reset and what every step keeps -/

/-- PIN_RESET puts every block at its reset values, whatever it held, with presence as the PRESENT inputs stand and
no port loss (R2, R4, R5, R26, R44, R46, R62, R81, R84, R89, R105, R106, R124, R138, R147, R148, R158, R160). The
commands that wait are the model's own and stay. What is on its way is discarded, by the model's reading
(notes/assumptions/19.md). -/
def Obligations.PinResetRestoresEveryBlock : Prop :=
  ∀ (s : State) (inputs : InputLevels), ∃ t : State, exec (.pinReset inputs) s = .next t ∧
    t.phase = .setup ∧ (∀ h, t.record h = none) ∧ (∀ p, t.quota p = if p = supervisor then 16 else 8) ∧
    (∀ d l, t.point d l = { valid := l = 0, clock := 0x00, volt := 0x80 }) ∧
    (∀ d, t.config d = {
      rest := 0, safe := 0, floorLimit := 0, ceilingLimit := 15, throttleLine := none, throttleLevel := 0
      rail := ⟨d % 4, Nat.mod_lt _ (by decide)⟩, lockCount := 20, gateCount := 10, park := false, window := 10
      policy := .stay }) ∧
    (∀ d, t.domain d = {
      target := 0, source := .rest, force := none, throttled := false, settled := true, state := .steady
      current := 0, step := none, strobe := none, need := some 0x80, lockTimer := none, gateTimer := none
      quietTimer := none, cause := .none, gated := false, assuredNews := false }) ∧
    (∀ v, t.rail v = {
      state := .steady, confirmed := 0x80, required := 0x80, command := .none, min := 0x00, max := 0xFF
      fallback := 0x80, retention := 0x80, stepTime := 2, cause := .none }) ∧
    t.link.transfer = none ∧ t.link.replyTimer = none ∧ t.link.lastServed = 3 ∧ t.link.bit = false ∧
    t.link.resetHold = some 100 ∧ (∀ v, t.waiting v = false) ∧
    t.park = { queue := [], request := none, timeout := 20, cdom := 0 } ∧
    (∀ p, t.box p = { pending := [], lost := false, leaving := [], turns := 0 } ∧ (t.port p).past = [] ∧ (t.port p).since = 0 ∧
      (t.port p).slot = .empty ∧ (t.port p).framing = false ∧
      (t.port p).sent = []) ∧
    (∀ x : AgentId, (t.port x.castSucc).present = inputs.present[x]) ∧ (t.port supervisor).present = true ∧
    t.reports = [] ∧ t.raised = [] ∧ t.pending = s.pending

/-- The state after reset, with the input levels of notes/assumptions/1.md, is sound. -/
def Obligations.ResetIsSound : Prop :=
  State.reset.Sound ∧ State.reset.KeysUnique ∧ State.reset.SetupEmpty ∧ State.reset.QuotasKept ∧
  State.reset.LeasesShown ∧ State.reset.GenerationsSound ∧ State.reset.StatusesSound ∧ State.reset.BoxesSound

/-- Every step keeps the relations between the blocks, the covering relation among them: except under a rail in
FALLBACK or SHUTDOWN, no clock runs above what its rail has confirmed (R44, R65, R75, R76, R78, R88, R91, R106, R116,
R129, R130). -/
def Obligations.StepKeepsTheCoveringRelation : Prop :=
  ∀ s t : State, s.Sound → step s = .next t → t.Sound

/-- Every step keeps the relations of the demand table: unique keys, no record in SETUP, live counts within the
quotas, leases and generations in their ranges with those of IN_FORCE records acknowledged, and, from a sound
state, each status fit for its domain's state: HELD exactly on FROZEN and OFF domains, IN_FORCE and CLAMPED only on
settled and PARKED ones (R2, R4, R5, R11, R13, R37 to R40, R42). -/
def Obligations.StepKeepsTheDemandTable : Prop :=
  ∀ s t : State, step s = .next t →
    (s.KeysUnique → t.KeysUnique) ∧ (s.SetupEmpty → t.SetupEmpty) ∧ (s.QuotasKept → t.QuotasKept) ∧
    (s.LeasesShown → t.LeasesShown) ∧ (s.GenerationsSound → t.GenerationsSound) ∧
    (s.Sound → s.StatusesSound → t.StatusesSound)

/-- Every step keeps every pending set within 16 notices, never two of the same kind and subject, and never both
IN_FORCE and CLAMPED for one handle (R140). -/
def Obligations.StepKeepsPendingSets : Prop :=
  ∀ s t : State, s.BoxesSound → step s = .next t → t.BoxesSound
end

