-- ==== Sys2Proof/Laws/State.lean ====
section
/-! SUPPORT. The fields of the state after each update of one block: what an update leaves as it was, field by field and
view by view, and what it puts in its place. -/

namespace Sys2Proof.Machine

variable (s : State)

/-! ### State.setRecord -/

@[simp] theorem State.setRecord_phase (h : Handle) (r : Option Record) : (s.setRecord h r).phase = s.phase := rfl
@[simp] theorem State.setRecord_quotas (h : Handle) (r : Option Record) : (s.setRecord h r).quotas = s.quotas := rfl
@[simp] theorem State.setRecord_reports (h : Handle) (r : Option Record) : (s.setRecord h r).reports = s.reports := rfl
@[simp] theorem State.setRecord_setups (h : Handle) (r : Option Record) : (s.setRecord h r).setups = s.setups := rfl
@[simp] theorem State.setRecord_domains (h : Handle) (r : Option Record) : (s.setRecord h r).domains = s.domains := rfl
@[simp] theorem State.setRecord_rails (h : Handle) (r : Option Record) : (s.setRecord h r).rails = s.rails := rfl
@[simp] theorem State.setRecord_link (h : Handle) (r : Option Record) : (s.setRecord h r).link = s.link := rfl
@[simp] theorem State.setRecord_park (h : Handle) (r : Option Record) : (s.setRecord h r).park = s.park := rfl
@[simp] theorem State.setRecord_boxes (h : Handle) (r : Option Record) : (s.setRecord h r).boxes = s.boxes := rfl
@[simp] theorem State.setRecord_raised (h : Handle) (r : Option Record) : (s.setRecord h r).raised = s.raised := rfl
@[simp] theorem State.setRecord_ports (h : Handle) (r : Option Record) : (s.setRecord h r).ports = s.ports := rfl
@[simp] theorem State.setRecord_sdo (h : Handle) (r : Option Record) : (s.setRecord h r).sdo = s.sdo := rfl
@[simp] theorem State.setRecord_pins (h : Handle) (r : Option Record) : (s.setRecord h r).pins = s.pins := rfl
@[simp] theorem State.setRecord_bus (h : Handle) (r : Option Record) : (s.setRecord h r).bus = s.bus := rfl
@[simp] theorem State.setRecord_choices (h : Handle) (r : Option Record) : (s.setRecord h r).choices = s.choices := rfl
@[simp] theorem State.setRecord_pending (h : Handle) (r : Option Record) : (s.setRecord h r).pending = s.pending := rfl
@[simp] theorem State.setRecord_quota (h : Handle) (r : Option Record) (q' : PortId) : (s.setRecord h r).quota q' = s.quota q' := rfl
@[simp] theorem State.setRecord_setup (h : Handle) (r : Option Record) (e : DomainId) : (s.setRecord h r).setup e = s.setup e := rfl
@[simp] theorem State.setRecord_config (h : Handle) (r : Option Record) (e : DomainId) : (s.setRecord h r).config e = s.config e := rfl
@[simp] theorem State.setRecord_railOf (h : Handle) (r : Option Record) (e : DomainId) : (s.setRecord h r).railOf e = s.railOf e := rfl
@[simp] theorem State.setRecord_point (h : Handle) (r : Option Record) (e : DomainId) (m : Level) : (s.setRecord h r).point e m = s.point e m := rfl
@[simp] theorem State.setRecord_code (h : Handle) (r : Option Record) (e : DomainId) (m : Level) : (s.setRecord h r).code e m = s.code e m := rfl
@[simp] theorem State.setRecord_domain (h : Handle) (r : Option Record) (e : DomainId) : (s.setRecord h r).domain e = s.domain e := rfl
@[simp] theorem State.setRecord_rail (h : Handle) (r : Option Record) (w : RailId) : (s.setRecord h r).rail w = s.rail w := rfl
@[simp] theorem State.setRecord_box (h : Handle) (r : Option Record) (q' : PortId) : (s.setRecord h r).box q' = s.box q' := rfl
@[simp] theorem State.setRecord_port (h : Handle) (r : Option Record) (q' : PortId) : (s.setRecord h r).port q' = s.port q' := rfl

/-! ### State.setQuota -/

@[simp] theorem State.setQuota_phase (p : PortId) (n : Nat) : (s.setQuota p n).phase = s.phase := rfl
@[simp] theorem State.setQuota_records (p : PortId) (n : Nat) : (s.setQuota p n).records = s.records := rfl
@[simp] theorem State.setQuota_reports (p : PortId) (n : Nat) : (s.setQuota p n).reports = s.reports := rfl
@[simp] theorem State.setQuota_setups (p : PortId) (n : Nat) : (s.setQuota p n).setups = s.setups := rfl
@[simp] theorem State.setQuota_domains (p : PortId) (n : Nat) : (s.setQuota p n).domains = s.domains := rfl
@[simp] theorem State.setQuota_rails (p : PortId) (n : Nat) : (s.setQuota p n).rails = s.rails := rfl
@[simp] theorem State.setQuota_link (p : PortId) (n : Nat) : (s.setQuota p n).link = s.link := rfl
@[simp] theorem State.setQuota_park (p : PortId) (n : Nat) : (s.setQuota p n).park = s.park := rfl
@[simp] theorem State.setQuota_boxes (p : PortId) (n : Nat) : (s.setQuota p n).boxes = s.boxes := rfl
@[simp] theorem State.setQuota_raised (p : PortId) (n : Nat) : (s.setQuota p n).raised = s.raised := rfl
@[simp] theorem State.setQuota_ports (p : PortId) (n : Nat) : (s.setQuota p n).ports = s.ports := rfl
@[simp] theorem State.setQuota_sdo (p : PortId) (n : Nat) : (s.setQuota p n).sdo = s.sdo := rfl
@[simp] theorem State.setQuota_pins (p : PortId) (n : Nat) : (s.setQuota p n).pins = s.pins := rfl
@[simp] theorem State.setQuota_bus (p : PortId) (n : Nat) : (s.setQuota p n).bus = s.bus := rfl
@[simp] theorem State.setQuota_choices (p : PortId) (n : Nat) : (s.setQuota p n).choices = s.choices := rfl
@[simp] theorem State.setQuota_pending (p : PortId) (n : Nat) : (s.setQuota p n).pending = s.pending := rfl
@[simp] theorem State.setQuota_record (p : PortId) (n : Nat) (k : Handle) : (s.setQuota p n).record k = s.record k := rfl
@[simp] theorem State.setQuota_setup (p : PortId) (n : Nat) (e : DomainId) : (s.setQuota p n).setup e = s.setup e := rfl
@[simp] theorem State.setQuota_config (p : PortId) (n : Nat) (e : DomainId) : (s.setQuota p n).config e = s.config e := rfl
@[simp] theorem State.setQuota_railOf (p : PortId) (n : Nat) (e : DomainId) : (s.setQuota p n).railOf e = s.railOf e := rfl
@[simp] theorem State.setQuota_point (p : PortId) (n : Nat) (e : DomainId) (m : Level) : (s.setQuota p n).point e m = s.point e m := rfl
@[simp] theorem State.setQuota_code (p : PortId) (n : Nat) (e : DomainId) (m : Level) : (s.setQuota p n).code e m = s.code e m := rfl
@[simp] theorem State.setQuota_domain (p : PortId) (n : Nat) (e : DomainId) : (s.setQuota p n).domain e = s.domain e := rfl
@[simp] theorem State.setQuota_rail (p : PortId) (n : Nat) (w : RailId) : (s.setQuota p n).rail w = s.rail w := rfl
@[simp] theorem State.setQuota_box (p : PortId) (n : Nat) (q' : PortId) : (s.setQuota p n).box q' = s.box q' := rfl
@[simp] theorem State.setQuota_port (p : PortId) (n : Nat) (q' : PortId) : (s.setQuota p n).port q' = s.port q' := rfl

/-! ### State.setSetup -/

@[simp] theorem State.setSetup_phase (d : DomainId) (x : Setup) : (s.setSetup d x).phase = s.phase := rfl
@[simp] theorem State.setSetup_records (d : DomainId) (x : Setup) : (s.setSetup d x).records = s.records := rfl
@[simp] theorem State.setSetup_quotas (d : DomainId) (x : Setup) : (s.setSetup d x).quotas = s.quotas := rfl
@[simp] theorem State.setSetup_reports (d : DomainId) (x : Setup) : (s.setSetup d x).reports = s.reports := rfl
@[simp] theorem State.setSetup_domains (d : DomainId) (x : Setup) : (s.setSetup d x).domains = s.domains := rfl
@[simp] theorem State.setSetup_rails (d : DomainId) (x : Setup) : (s.setSetup d x).rails = s.rails := rfl
@[simp] theorem State.setSetup_link (d : DomainId) (x : Setup) : (s.setSetup d x).link = s.link := rfl
@[simp] theorem State.setSetup_park (d : DomainId) (x : Setup) : (s.setSetup d x).park = s.park := rfl
@[simp] theorem State.setSetup_boxes (d : DomainId) (x : Setup) : (s.setSetup d x).boxes = s.boxes := rfl
@[simp] theorem State.setSetup_raised (d : DomainId) (x : Setup) : (s.setSetup d x).raised = s.raised := rfl
@[simp] theorem State.setSetup_ports (d : DomainId) (x : Setup) : (s.setSetup d x).ports = s.ports := rfl
@[simp] theorem State.setSetup_sdo (d : DomainId) (x : Setup) : (s.setSetup d x).sdo = s.sdo := rfl
@[simp] theorem State.setSetup_pins (d : DomainId) (x : Setup) : (s.setSetup d x).pins = s.pins := rfl
@[simp] theorem State.setSetup_bus (d : DomainId) (x : Setup) : (s.setSetup d x).bus = s.bus := rfl
@[simp] theorem State.setSetup_choices (d : DomainId) (x : Setup) : (s.setSetup d x).choices = s.choices := rfl
@[simp] theorem State.setSetup_pending (d : DomainId) (x : Setup) : (s.setSetup d x).pending = s.pending := rfl
@[simp] theorem State.setSetup_record (d : DomainId) (x : Setup) (k : Handle) : (s.setSetup d x).record k = s.record k := rfl
@[simp] theorem State.setSetup_quota (d : DomainId) (x : Setup) (q' : PortId) : (s.setSetup d x).quota q' = s.quota q' := rfl
@[simp] theorem State.setSetup_domain (d : DomainId) (x : Setup) (e : DomainId) : (s.setSetup d x).domain e = s.domain e := rfl
@[simp] theorem State.setSetup_rail (d : DomainId) (x : Setup) (w : RailId) : (s.setSetup d x).rail w = s.rail w := rfl
@[simp] theorem State.setSetup_box (d : DomainId) (x : Setup) (q' : PortId) : (s.setSetup d x).box q' = s.box q' := rfl
@[simp] theorem State.setSetup_port (d : DomainId) (x : Setup) (q' : PortId) : (s.setSetup d x).port q' = s.port q' := rfl

/-! ### State.setConfig -/

@[simp] theorem State.setConfig_phase (d : DomainId) (c : Configuration) : (s.setConfig d c).phase = s.phase := rfl
@[simp] theorem State.setConfig_records (d : DomainId) (c : Configuration) : (s.setConfig d c).records = s.records := rfl
@[simp] theorem State.setConfig_quotas (d : DomainId) (c : Configuration) : (s.setConfig d c).quotas = s.quotas := rfl
@[simp] theorem State.setConfig_reports (d : DomainId) (c : Configuration) : (s.setConfig d c).reports = s.reports := rfl
@[simp] theorem State.setConfig_domains (d : DomainId) (c : Configuration) : (s.setConfig d c).domains = s.domains := rfl
@[simp] theorem State.setConfig_rails (d : DomainId) (c : Configuration) : (s.setConfig d c).rails = s.rails := rfl
@[simp] theorem State.setConfig_link (d : DomainId) (c : Configuration) : (s.setConfig d c).link = s.link := rfl
@[simp] theorem State.setConfig_park (d : DomainId) (c : Configuration) : (s.setConfig d c).park = s.park := rfl
@[simp] theorem State.setConfig_boxes (d : DomainId) (c : Configuration) : (s.setConfig d c).boxes = s.boxes := rfl
@[simp] theorem State.setConfig_raised (d : DomainId) (c : Configuration) : (s.setConfig d c).raised = s.raised := rfl
@[simp] theorem State.setConfig_ports (d : DomainId) (c : Configuration) : (s.setConfig d c).ports = s.ports := rfl
@[simp] theorem State.setConfig_sdo (d : DomainId) (c : Configuration) : (s.setConfig d c).sdo = s.sdo := rfl
@[simp] theorem State.setConfig_pins (d : DomainId) (c : Configuration) : (s.setConfig d c).pins = s.pins := rfl
@[simp] theorem State.setConfig_bus (d : DomainId) (c : Configuration) : (s.setConfig d c).bus = s.bus := rfl
@[simp] theorem State.setConfig_choices (d : DomainId) (c : Configuration) : (s.setConfig d c).choices = s.choices := rfl
@[simp] theorem State.setConfig_pending (d : DomainId) (c : Configuration) : (s.setConfig d c).pending = s.pending := rfl
@[simp] theorem State.setConfig_record (d : DomainId) (c : Configuration) (k : Handle) : (s.setConfig d c).record k = s.record k := rfl
@[simp] theorem State.setConfig_quota (d : DomainId) (c : Configuration) (q' : PortId) : (s.setConfig d c).quota q' = s.quota q' := rfl
@[simp] theorem State.setConfig_domain (d : DomainId) (c : Configuration) (e : DomainId) : (s.setConfig d c).domain e = s.domain e := rfl
@[simp] theorem State.setConfig_rail (d : DomainId) (c : Configuration) (w : RailId) : (s.setConfig d c).rail w = s.rail w := rfl
@[simp] theorem State.setConfig_box (d : DomainId) (c : Configuration) (q' : PortId) : (s.setConfig d c).box q' = s.box q' := rfl
@[simp] theorem State.setConfig_port (d : DomainId) (c : Configuration) (q' : PortId) : (s.setConfig d c).port q' = s.port q' := rfl

/-! ### State.setPoint -/

@[simp] theorem State.setPoint_phase (d : DomainId) (l : Level) (x : Point) : (s.setPoint d l x).phase = s.phase := rfl
@[simp] theorem State.setPoint_records (d : DomainId) (l : Level) (x : Point) : (s.setPoint d l x).records = s.records := rfl
@[simp] theorem State.setPoint_quotas (d : DomainId) (l : Level) (x : Point) : (s.setPoint d l x).quotas = s.quotas := rfl
@[simp] theorem State.setPoint_reports (d : DomainId) (l : Level) (x : Point) : (s.setPoint d l x).reports = s.reports := rfl
@[simp] theorem State.setPoint_domains (d : DomainId) (l : Level) (x : Point) : (s.setPoint d l x).domains = s.domains := rfl
@[simp] theorem State.setPoint_rails (d : DomainId) (l : Level) (x : Point) : (s.setPoint d l x).rails = s.rails := rfl
@[simp] theorem State.setPoint_link (d : DomainId) (l : Level) (x : Point) : (s.setPoint d l x).link = s.link := rfl
@[simp] theorem State.setPoint_park (d : DomainId) (l : Level) (x : Point) : (s.setPoint d l x).park = s.park := rfl
@[simp] theorem State.setPoint_boxes (d : DomainId) (l : Level) (x : Point) : (s.setPoint d l x).boxes = s.boxes := rfl
@[simp] theorem State.setPoint_raised (d : DomainId) (l : Level) (x : Point) : (s.setPoint d l x).raised = s.raised := rfl
@[simp] theorem State.setPoint_ports (d : DomainId) (l : Level) (x : Point) : (s.setPoint d l x).ports = s.ports := rfl
@[simp] theorem State.setPoint_sdo (d : DomainId) (l : Level) (x : Point) : (s.setPoint d l x).sdo = s.sdo := rfl
@[simp] theorem State.setPoint_pins (d : DomainId) (l : Level) (x : Point) : (s.setPoint d l x).pins = s.pins := rfl
@[simp] theorem State.setPoint_bus (d : DomainId) (l : Level) (x : Point) : (s.setPoint d l x).bus = s.bus := rfl
@[simp] theorem State.setPoint_choices (d : DomainId) (l : Level) (x : Point) : (s.setPoint d l x).choices = s.choices := rfl
@[simp] theorem State.setPoint_pending (d : DomainId) (l : Level) (x : Point) : (s.setPoint d l x).pending = s.pending := rfl
@[simp] theorem State.setPoint_record (d : DomainId) (l : Level) (x : Point) (k : Handle) : (s.setPoint d l x).record k = s.record k := rfl
@[simp] theorem State.setPoint_quota (d : DomainId) (l : Level) (x : Point) (q' : PortId) : (s.setPoint d l x).quota q' = s.quota q' := rfl
@[simp] theorem State.setPoint_domain (d : DomainId) (l : Level) (x : Point) (e : DomainId) : (s.setPoint d l x).domain e = s.domain e := rfl
@[simp] theorem State.setPoint_rail (d : DomainId) (l : Level) (x : Point) (w : RailId) : (s.setPoint d l x).rail w = s.rail w := rfl
@[simp] theorem State.setPoint_box (d : DomainId) (l : Level) (x : Point) (q' : PortId) : (s.setPoint d l x).box q' = s.box q' := rfl
@[simp] theorem State.setPoint_port (d : DomainId) (l : Level) (x : Point) (q' : PortId) : (s.setPoint d l x).port q' = s.port q' := rfl

/-! ### State.setDomain -/

@[simp] theorem State.setDomain_phase (d : DomainId) (c : Domain) : (s.setDomain d c).phase = s.phase := rfl
@[simp] theorem State.setDomain_records (d : DomainId) (c : Domain) : (s.setDomain d c).records = s.records := rfl
@[simp] theorem State.setDomain_quotas (d : DomainId) (c : Domain) : (s.setDomain d c).quotas = s.quotas := rfl
@[simp] theorem State.setDomain_reports (d : DomainId) (c : Domain) : (s.setDomain d c).reports = s.reports := rfl
@[simp] theorem State.setDomain_setups (d : DomainId) (c : Domain) : (s.setDomain d c).setups = s.setups := rfl
@[simp] theorem State.setDomain_rails (d : DomainId) (c : Domain) : (s.setDomain d c).rails = s.rails := rfl
@[simp] theorem State.setDomain_link (d : DomainId) (c : Domain) : (s.setDomain d c).link = s.link := rfl
@[simp] theorem State.setDomain_park (d : DomainId) (c : Domain) : (s.setDomain d c).park = s.park := rfl
@[simp] theorem State.setDomain_boxes (d : DomainId) (c : Domain) : (s.setDomain d c).boxes = s.boxes := rfl
@[simp] theorem State.setDomain_raised (d : DomainId) (c : Domain) : (s.setDomain d c).raised = s.raised := rfl
@[simp] theorem State.setDomain_ports (d : DomainId) (c : Domain) : (s.setDomain d c).ports = s.ports := rfl
@[simp] theorem State.setDomain_sdo (d : DomainId) (c : Domain) : (s.setDomain d c).sdo = s.sdo := rfl
@[simp] theorem State.setDomain_pins (d : DomainId) (c : Domain) : (s.setDomain d c).pins = s.pins := rfl
@[simp] theorem State.setDomain_bus (d : DomainId) (c : Domain) : (s.setDomain d c).bus = s.bus := rfl
@[simp] theorem State.setDomain_choices (d : DomainId) (c : Domain) : (s.setDomain d c).choices = s.choices := rfl
@[simp] theorem State.setDomain_pending (d : DomainId) (c : Domain) : (s.setDomain d c).pending = s.pending := rfl
@[simp] theorem State.setDomain_record (d : DomainId) (c : Domain) (k : Handle) : (s.setDomain d c).record k = s.record k := rfl
@[simp] theorem State.setDomain_quota (d : DomainId) (c : Domain) (q' : PortId) : (s.setDomain d c).quota q' = s.quota q' := rfl
@[simp] theorem State.setDomain_setup (d : DomainId) (c : Domain) (e : DomainId) : (s.setDomain d c).setup e = s.setup e := rfl
@[simp] theorem State.setDomain_config (d : DomainId) (c : Domain) (e : DomainId) : (s.setDomain d c).config e = s.config e := rfl
@[simp] theorem State.setDomain_railOf (d : DomainId) (c : Domain) (e : DomainId) : (s.setDomain d c).railOf e = s.railOf e := rfl
@[simp] theorem State.setDomain_point (d : DomainId) (c : Domain) (e : DomainId) (m : Level) : (s.setDomain d c).point e m = s.point e m := rfl
@[simp] theorem State.setDomain_code (d : DomainId) (c : Domain) (e : DomainId) (m : Level) : (s.setDomain d c).code e m = s.code e m := rfl
@[simp] theorem State.setDomain_rail (d : DomainId) (c : Domain) (w : RailId) : (s.setDomain d c).rail w = s.rail w := rfl
@[simp] theorem State.setDomain_box (d : DomainId) (c : Domain) (q' : PortId) : (s.setDomain d c).box q' = s.box q' := rfl
@[simp] theorem State.setDomain_port (d : DomainId) (c : Domain) (q' : PortId) : (s.setDomain d c).port q' = s.port q' := rfl

/-! ### State.setRail -/

@[simp] theorem State.setRail_phase (v : RailId) (r : Rail) : (s.setRail v r).phase = s.phase := rfl
@[simp] theorem State.setRail_records (v : RailId) (r : Rail) : (s.setRail v r).records = s.records := rfl
@[simp] theorem State.setRail_quotas (v : RailId) (r : Rail) : (s.setRail v r).quotas = s.quotas := rfl
@[simp] theorem State.setRail_reports (v : RailId) (r : Rail) : (s.setRail v r).reports = s.reports := rfl
@[simp] theorem State.setRail_setups (v : RailId) (r : Rail) : (s.setRail v r).setups = s.setups := rfl
@[simp] theorem State.setRail_domains (v : RailId) (r : Rail) : (s.setRail v r).domains = s.domains := rfl
@[simp] theorem State.setRail_link (v : RailId) (r : Rail) : (s.setRail v r).link = s.link := rfl
@[simp] theorem State.setRail_park (v : RailId) (r : Rail) : (s.setRail v r).park = s.park := rfl
@[simp] theorem State.setRail_boxes (v : RailId) (r : Rail) : (s.setRail v r).boxes = s.boxes := rfl
@[simp] theorem State.setRail_raised (v : RailId) (r : Rail) : (s.setRail v r).raised = s.raised := rfl
@[simp] theorem State.setRail_ports (v : RailId) (r : Rail) : (s.setRail v r).ports = s.ports := rfl
@[simp] theorem State.setRail_sdo (v : RailId) (r : Rail) : (s.setRail v r).sdo = s.sdo := rfl
@[simp] theorem State.setRail_pins (v : RailId) (r : Rail) : (s.setRail v r).pins = s.pins := rfl
@[simp] theorem State.setRail_bus (v : RailId) (r : Rail) : (s.setRail v r).bus = s.bus := rfl
@[simp] theorem State.setRail_choices (v : RailId) (r : Rail) : (s.setRail v r).choices = s.choices := rfl
@[simp] theorem State.setRail_pending (v : RailId) (r : Rail) : (s.setRail v r).pending = s.pending := rfl
@[simp] theorem State.setRail_record (v : RailId) (r : Rail) (k : Handle) : (s.setRail v r).record k = s.record k := rfl
@[simp] theorem State.setRail_quota (v : RailId) (r : Rail) (q' : PortId) : (s.setRail v r).quota q' = s.quota q' := rfl
@[simp] theorem State.setRail_setup (v : RailId) (r : Rail) (e : DomainId) : (s.setRail v r).setup e = s.setup e := rfl
@[simp] theorem State.setRail_config (v : RailId) (r : Rail) (e : DomainId) : (s.setRail v r).config e = s.config e := rfl
@[simp] theorem State.setRail_railOf (v : RailId) (r : Rail) (e : DomainId) : (s.setRail v r).railOf e = s.railOf e := rfl
@[simp] theorem State.setRail_point (v : RailId) (r : Rail) (e : DomainId) (m : Level) : (s.setRail v r).point e m = s.point e m := rfl
@[simp] theorem State.setRail_code (v : RailId) (r : Rail) (e : DomainId) (m : Level) : (s.setRail v r).code e m = s.code e m := rfl
@[simp] theorem State.setRail_domain (v : RailId) (r : Rail) (e : DomainId) : (s.setRail v r).domain e = s.domain e := rfl
@[simp] theorem State.setRail_box (v : RailId) (r : Rail) (q' : PortId) : (s.setRail v r).box q' = s.box q' := rfl
@[simp] theorem State.setRail_port (v : RailId) (r : Rail) (q' : PortId) : (s.setRail v r).port q' = s.port q' := rfl

/-! ### State.setBox -/

@[simp] theorem State.setBox_phase (p : PortId) (b : Box) : (s.setBox p b).phase = s.phase := rfl
@[simp] theorem State.setBox_records (p : PortId) (b : Box) : (s.setBox p b).records = s.records := rfl
@[simp] theorem State.setBox_quotas (p : PortId) (b : Box) : (s.setBox p b).quotas = s.quotas := rfl
@[simp] theorem State.setBox_reports (p : PortId) (b : Box) : (s.setBox p b).reports = s.reports := rfl
@[simp] theorem State.setBox_setups (p : PortId) (b : Box) : (s.setBox p b).setups = s.setups := rfl
@[simp] theorem State.setBox_domains (p : PortId) (b : Box) : (s.setBox p b).domains = s.domains := rfl
@[simp] theorem State.setBox_rails (p : PortId) (b : Box) : (s.setBox p b).rails = s.rails := rfl
@[simp] theorem State.setBox_link (p : PortId) (b : Box) : (s.setBox p b).link = s.link := rfl
@[simp] theorem State.setBox_park (p : PortId) (b : Box) : (s.setBox p b).park = s.park := rfl
@[simp] theorem State.setBox_raised (p : PortId) (b : Box) : (s.setBox p b).raised = s.raised := rfl
@[simp] theorem State.setBox_ports (p : PortId) (b : Box) : (s.setBox p b).ports = s.ports := rfl
@[simp] theorem State.setBox_sdo (p : PortId) (b : Box) : (s.setBox p b).sdo = s.sdo := rfl
@[simp] theorem State.setBox_pins (p : PortId) (b : Box) : (s.setBox p b).pins = s.pins := rfl
@[simp] theorem State.setBox_bus (p : PortId) (b : Box) : (s.setBox p b).bus = s.bus := rfl
@[simp] theorem State.setBox_choices (p : PortId) (b : Box) : (s.setBox p b).choices = s.choices := rfl
@[simp] theorem State.setBox_pending (p : PortId) (b : Box) : (s.setBox p b).pending = s.pending := rfl
@[simp] theorem State.setBox_record (p : PortId) (b : Box) (k : Handle) : (s.setBox p b).record k = s.record k := rfl
@[simp] theorem State.setBox_quota (p : PortId) (b : Box) (q' : PortId) : (s.setBox p b).quota q' = s.quota q' := rfl
@[simp] theorem State.setBox_setup (p : PortId) (b : Box) (e : DomainId) : (s.setBox p b).setup e = s.setup e := rfl
@[simp] theorem State.setBox_config (p : PortId) (b : Box) (e : DomainId) : (s.setBox p b).config e = s.config e := rfl
@[simp] theorem State.setBox_railOf (p : PortId) (b : Box) (e : DomainId) : (s.setBox p b).railOf e = s.railOf e := rfl
@[simp] theorem State.setBox_point (p : PortId) (b : Box) (e : DomainId) (m : Level) : (s.setBox p b).point e m = s.point e m := rfl
@[simp] theorem State.setBox_code (p : PortId) (b : Box) (e : DomainId) (m : Level) : (s.setBox p b).code e m = s.code e m := rfl
@[simp] theorem State.setBox_domain (p : PortId) (b : Box) (e : DomainId) : (s.setBox p b).domain e = s.domain e := rfl
@[simp] theorem State.setBox_rail (p : PortId) (b : Box) (w : RailId) : (s.setBox p b).rail w = s.rail w := rfl
@[simp] theorem State.setBox_port (p : PortId) (b : Box) (q' : PortId) : (s.setBox p b).port q' = s.port q' := rfl

/-! ### State.setPort -/

@[simp] theorem State.setPort_phase (p : PortId) (q : Port) : (s.setPort p q).phase = s.phase := rfl
@[simp] theorem State.setPort_records (p : PortId) (q : Port) : (s.setPort p q).records = s.records := rfl
@[simp] theorem State.setPort_quotas (p : PortId) (q : Port) : (s.setPort p q).quotas = s.quotas := rfl
@[simp] theorem State.setPort_reports (p : PortId) (q : Port) : (s.setPort p q).reports = s.reports := rfl
@[simp] theorem State.setPort_setups (p : PortId) (q : Port) : (s.setPort p q).setups = s.setups := rfl
@[simp] theorem State.setPort_domains (p : PortId) (q : Port) : (s.setPort p q).domains = s.domains := rfl
@[simp] theorem State.setPort_rails (p : PortId) (q : Port) : (s.setPort p q).rails = s.rails := rfl
@[simp] theorem State.setPort_link (p : PortId) (q : Port) : (s.setPort p q).link = s.link := rfl
@[simp] theorem State.setPort_park (p : PortId) (q : Port) : (s.setPort p q).park = s.park := rfl
@[simp] theorem State.setPort_boxes (p : PortId) (q : Port) : (s.setPort p q).boxes = s.boxes := rfl
@[simp] theorem State.setPort_raised (p : PortId) (q : Port) : (s.setPort p q).raised = s.raised := rfl
@[simp] theorem State.setPort_sdo (p : PortId) (q : Port) : (s.setPort p q).sdo = s.sdo := rfl
@[simp] theorem State.setPort_pins (p : PortId) (q : Port) : (s.setPort p q).pins = s.pins := rfl
@[simp] theorem State.setPort_bus (p : PortId) (q : Port) : (s.setPort p q).bus = s.bus := rfl
@[simp] theorem State.setPort_choices (p : PortId) (q : Port) : (s.setPort p q).choices = s.choices := rfl
@[simp] theorem State.setPort_pending (p : PortId) (q : Port) : (s.setPort p q).pending = s.pending := rfl
@[simp] theorem State.setPort_record (p : PortId) (q : Port) (k : Handle) : (s.setPort p q).record k = s.record k := rfl
@[simp] theorem State.setPort_quota (p : PortId) (q : Port) (q' : PortId) : (s.setPort p q).quota q' = s.quota q' := rfl
@[simp] theorem State.setPort_setup (p : PortId) (q : Port) (e : DomainId) : (s.setPort p q).setup e = s.setup e := rfl
@[simp] theorem State.setPort_config (p : PortId) (q : Port) (e : DomainId) : (s.setPort p q).config e = s.config e := rfl
@[simp] theorem State.setPort_railOf (p : PortId) (q : Port) (e : DomainId) : (s.setPort p q).railOf e = s.railOf e := rfl
@[simp] theorem State.setPort_point (p : PortId) (q : Port) (e : DomainId) (m : Level) : (s.setPort p q).point e m = s.point e m := rfl
@[simp] theorem State.setPort_code (p : PortId) (q : Port) (e : DomainId) (m : Level) : (s.setPort p q).code e m = s.code e m := rfl
@[simp] theorem State.setPort_domain (p : PortId) (q : Port) (e : DomainId) : (s.setPort p q).domain e = s.domain e := rfl
@[simp] theorem State.setPort_rail (p : PortId) (q : Port) (w : RailId) : (s.setPort p q).rail w = s.rail w := rfl
@[simp] theorem State.setPort_box (p : PortId) (q : Port) (q' : PortId) : (s.setPort p q).box q' = s.box q' := rfl

/-! ### State.report -/

@[simp] theorem State.report_phase (d : DomainId) (h : Handle) (kind : ReportKind) : (s.report d h kind).phase = s.phase := rfl
@[simp] theorem State.report_records (d : DomainId) (h : Handle) (kind : ReportKind) : (s.report d h kind).records = s.records := rfl
@[simp] theorem State.report_quotas (d : DomainId) (h : Handle) (kind : ReportKind) : (s.report d h kind).quotas = s.quotas := rfl
@[simp] theorem State.report_setups (d : DomainId) (h : Handle) (kind : ReportKind) : (s.report d h kind).setups = s.setups := rfl
@[simp] theorem State.report_domains (d : DomainId) (h : Handle) (kind : ReportKind) : (s.report d h kind).domains = s.domains := rfl
@[simp] theorem State.report_rails (d : DomainId) (h : Handle) (kind : ReportKind) : (s.report d h kind).rails = s.rails := rfl
@[simp] theorem State.report_link (d : DomainId) (h : Handle) (kind : ReportKind) : (s.report d h kind).link = s.link := rfl
@[simp] theorem State.report_park (d : DomainId) (h : Handle) (kind : ReportKind) : (s.report d h kind).park = s.park := rfl
@[simp] theorem State.report_boxes (d : DomainId) (h : Handle) (kind : ReportKind) : (s.report d h kind).boxes = s.boxes := rfl
@[simp] theorem State.report_raised (d : DomainId) (h : Handle) (kind : ReportKind) : (s.report d h kind).raised = s.raised := rfl
@[simp] theorem State.report_ports (d : DomainId) (h : Handle) (kind : ReportKind) : (s.report d h kind).ports = s.ports := rfl
@[simp] theorem State.report_sdo (d : DomainId) (h : Handle) (kind : ReportKind) : (s.report d h kind).sdo = s.sdo := rfl
@[simp] theorem State.report_pins (d : DomainId) (h : Handle) (kind : ReportKind) : (s.report d h kind).pins = s.pins := rfl
@[simp] theorem State.report_bus (d : DomainId) (h : Handle) (kind : ReportKind) : (s.report d h kind).bus = s.bus := rfl
@[simp] theorem State.report_choices (d : DomainId) (h : Handle) (kind : ReportKind) : (s.report d h kind).choices = s.choices := rfl
@[simp] theorem State.report_pending (d : DomainId) (h : Handle) (kind : ReportKind) : (s.report d h kind).pending = s.pending := rfl
@[simp] theorem State.report_record (d : DomainId) (h : Handle) (kind : ReportKind) (k : Handle) : (s.report d h kind).record k = s.record k := rfl
@[simp] theorem State.report_quota (d : DomainId) (h : Handle) (kind : ReportKind) (q' : PortId) : (s.report d h kind).quota q' = s.quota q' := rfl
@[simp] theorem State.report_setup (d : DomainId) (h : Handle) (kind : ReportKind) (e : DomainId) : (s.report d h kind).setup e = s.setup e := rfl
@[simp] theorem State.report_config (d : DomainId) (h : Handle) (kind : ReportKind) (e : DomainId) : (s.report d h kind).config e = s.config e := rfl
@[simp] theorem State.report_railOf (d : DomainId) (h : Handle) (kind : ReportKind) (e : DomainId) : (s.report d h kind).railOf e = s.railOf e := rfl
@[simp] theorem State.report_point (d : DomainId) (h : Handle) (kind : ReportKind) (e : DomainId) (m : Level) : (s.report d h kind).point e m = s.point e m := rfl
@[simp] theorem State.report_code (d : DomainId) (h : Handle) (kind : ReportKind) (e : DomainId) (m : Level) : (s.report d h kind).code e m = s.code e m := rfl
@[simp] theorem State.report_domain (d : DomainId) (h : Handle) (kind : ReportKind) (e : DomainId) : (s.report d h kind).domain e = s.domain e := rfl
@[simp] theorem State.report_rail (d : DomainId) (h : Handle) (kind : ReportKind) (w : RailId) : (s.report d h kind).rail w = s.rail w := rfl
@[simp] theorem State.report_box (d : DomainId) (h : Handle) (kind : ReportKind) (q' : PortId) : (s.report d h kind).box q' = s.box q' := rfl
@[simp] theorem State.report_port (d : DomainId) (h : Handle) (kind : ReportKind) (q' : PortId) : (s.report d h kind).port q' = s.port q' := rfl

/-! ### State.samplePg -/

@[simp] theorem State.samplePg_phase (v : RailId) (b : Bool) : (s.samplePg v b).phase = s.phase := rfl
@[simp] theorem State.samplePg_records (v : RailId) (b : Bool) : (s.samplePg v b).records = s.records := rfl
@[simp] theorem State.samplePg_quotas (v : RailId) (b : Bool) : (s.samplePg v b).quotas = s.quotas := rfl
@[simp] theorem State.samplePg_reports (v : RailId) (b : Bool) : (s.samplePg v b).reports = s.reports := rfl
@[simp] theorem State.samplePg_setups (v : RailId) (b : Bool) : (s.samplePg v b).setups = s.setups := rfl
@[simp] theorem State.samplePg_domains (v : RailId) (b : Bool) : (s.samplePg v b).domains = s.domains := rfl
@[simp] theorem State.samplePg_rails (v : RailId) (b : Bool) : (s.samplePg v b).rails = s.rails := rfl
@[simp] theorem State.samplePg_link (v : RailId) (b : Bool) : (s.samplePg v b).link = s.link := rfl
@[simp] theorem State.samplePg_park (v : RailId) (b : Bool) : (s.samplePg v b).park = s.park := rfl
@[simp] theorem State.samplePg_boxes (v : RailId) (b : Bool) : (s.samplePg v b).boxes = s.boxes := rfl
@[simp] theorem State.samplePg_raised (v : RailId) (b : Bool) : (s.samplePg v b).raised = s.raised := rfl
@[simp] theorem State.samplePg_ports (v : RailId) (b : Bool) : (s.samplePg v b).ports = s.ports := rfl
@[simp] theorem State.samplePg_sdo (v : RailId) (b : Bool) : (s.samplePg v b).sdo = s.sdo := rfl
@[simp] theorem State.samplePg_bus (v : RailId) (b : Bool) : (s.samplePg v b).bus = s.bus := rfl
@[simp] theorem State.samplePg_choices (v : RailId) (b : Bool) : (s.samplePg v b).choices = s.choices := rfl
@[simp] theorem State.samplePg_pending (v : RailId) (b : Bool) : (s.samplePg v b).pending = s.pending := rfl
@[simp] theorem State.samplePg_record (v : RailId) (b : Bool) (k : Handle) : (s.samplePg v b).record k = s.record k := rfl
@[simp] theorem State.samplePg_quota (v : RailId) (b : Bool) (q' : PortId) : (s.samplePg v b).quota q' = s.quota q' := rfl
@[simp] theorem State.samplePg_setup (v : RailId) (b : Bool) (e : DomainId) : (s.samplePg v b).setup e = s.setup e := rfl
@[simp] theorem State.samplePg_config (v : RailId) (b : Bool) (e : DomainId) : (s.samplePg v b).config e = s.config e := rfl
@[simp] theorem State.samplePg_railOf (v : RailId) (b : Bool) (e : DomainId) : (s.samplePg v b).railOf e = s.railOf e := rfl
@[simp] theorem State.samplePg_point (v : RailId) (b : Bool) (e : DomainId) (m : Level) : (s.samplePg v b).point e m = s.point e m := rfl
@[simp] theorem State.samplePg_code (v : RailId) (b : Bool) (e : DomainId) (m : Level) : (s.samplePg v b).code e m = s.code e m := rfl
@[simp] theorem State.samplePg_domain (v : RailId) (b : Bool) (e : DomainId) : (s.samplePg v b).domain e = s.domain e := rfl
@[simp] theorem State.samplePg_rail (v : RailId) (b : Bool) (w : RailId) : (s.samplePg v b).rail w = s.rail w := rfl
@[simp] theorem State.samplePg_box (v : RailId) (b : Bool) (q' : PortId) : (s.samplePg v b).box q' = s.box q' := rfl
@[simp] theorem State.samplePg_port (v : RailId) (b : Bool) (q' : PortId) : (s.samplePg v b).port q' = s.port q' := rfl

/-! ### State.mapRecords -/

@[simp] theorem State.mapRecords_phase (f : Record → Record) : (s.mapRecords f).phase = s.phase := rfl
@[simp] theorem State.mapRecords_quotas (f : Record → Record) : (s.mapRecords f).quotas = s.quotas := rfl
@[simp] theorem State.mapRecords_reports (f : Record → Record) : (s.mapRecords f).reports = s.reports := rfl
@[simp] theorem State.mapRecords_setups (f : Record → Record) : (s.mapRecords f).setups = s.setups := rfl
@[simp] theorem State.mapRecords_domains (f : Record → Record) : (s.mapRecords f).domains = s.domains := rfl
@[simp] theorem State.mapRecords_rails (f : Record → Record) : (s.mapRecords f).rails = s.rails := rfl
@[simp] theorem State.mapRecords_link (f : Record → Record) : (s.mapRecords f).link = s.link := rfl
@[simp] theorem State.mapRecords_park (f : Record → Record) : (s.mapRecords f).park = s.park := rfl
@[simp] theorem State.mapRecords_boxes (f : Record → Record) : (s.mapRecords f).boxes = s.boxes := rfl
@[simp] theorem State.mapRecords_raised (f : Record → Record) : (s.mapRecords f).raised = s.raised := rfl
@[simp] theorem State.mapRecords_ports (f : Record → Record) : (s.mapRecords f).ports = s.ports := rfl
@[simp] theorem State.mapRecords_sdo (f : Record → Record) : (s.mapRecords f).sdo = s.sdo := rfl
@[simp] theorem State.mapRecords_pins (f : Record → Record) : (s.mapRecords f).pins = s.pins := rfl
@[simp] theorem State.mapRecords_bus (f : Record → Record) : (s.mapRecords f).bus = s.bus := rfl
@[simp] theorem State.mapRecords_choices (f : Record → Record) : (s.mapRecords f).choices = s.choices := rfl
@[simp] theorem State.mapRecords_pending (f : Record → Record) : (s.mapRecords f).pending = s.pending := rfl
@[simp] theorem State.mapRecords_quota (f : Record → Record) (q' : PortId) : (s.mapRecords f).quota q' = s.quota q' := rfl
@[simp] theorem State.mapRecords_setup (f : Record → Record) (e : DomainId) : (s.mapRecords f).setup e = s.setup e := rfl
@[simp] theorem State.mapRecords_config (f : Record → Record) (e : DomainId) : (s.mapRecords f).config e = s.config e := rfl
@[simp] theorem State.mapRecords_railOf (f : Record → Record) (e : DomainId) : (s.mapRecords f).railOf e = s.railOf e := rfl
@[simp] theorem State.mapRecords_point (f : Record → Record) (e : DomainId) (m : Level) : (s.mapRecords f).point e m = s.point e m := rfl
@[simp] theorem State.mapRecords_code (f : Record → Record) (e : DomainId) (m : Level) : (s.mapRecords f).code e m = s.code e m := rfl
@[simp] theorem State.mapRecords_domain (f : Record → Record) (e : DomainId) : (s.mapRecords f).domain e = s.domain e := rfl
@[simp] theorem State.mapRecords_rail (f : Record → Record) (w : RailId) : (s.mapRecords f).rail w = s.rail w := rfl
@[simp] theorem State.mapRecords_box (f : Record → Record) (q' : PortId) : (s.mapRecords f).box q' = s.box q' := rfl
@[simp] theorem State.mapRecords_port (f : Record → Record) (q' : PortId) : (s.mapRecords f).port q' = s.port q' := rfl

/-! ### What an update puts in its place -/

theorem State.setRecord_record (h k : Handle) (r : Option Record) :
    (s.setRecord h r).record k = if k = h then r else s.record k := by
  simp [State.record, State.setRecord, Vector.getElem_set, Fin.ext_iff, eq_comm]

theorem State.setQuota_quota (p q : PortId) (n : Nat) : (s.setQuota p n).quota q = if q = p then n else s.quota q := by
  simp [State.quota, State.setQuota, Vector.getElem_set, Fin.ext_iff, eq_comm]

theorem State.setSetup_setup (d e : DomainId) (x : Setup) :
    (s.setSetup d x).setup e = if e = d then x else s.setup e := by
  simp [State.setup, State.setSetup, Vector.getElem_set, Fin.ext_iff, eq_comm]

theorem State.setDomain_domain (d e : DomainId) (c : Domain) :
    (s.setDomain d c).domain e = if e = d then c else s.domain e := by
  simp [State.domain, State.setDomain, Vector.getElem_set, Fin.ext_iff, eq_comm]

theorem State.setRail_rail (v w : RailId) (r : Rail) : (s.setRail v r).rail w = if w = v then r else s.rail w := by
  simp [State.rail, State.setRail, Vector.getElem_set, Fin.ext_iff, eq_comm]

theorem State.setBox_box (p q : PortId) (b : Box) : (s.setBox p b).box q = if q = p then b else s.box q := by
  simp [State.box, State.setBox, Vector.getElem_set, Fin.ext_iff, eq_comm]

theorem State.setPort_port (p q : PortId) (x : Port) : (s.setPort p x).port q = if q = p then x else s.port q := by
  simp [State.port, State.setPort, Vector.getElem_set, Fin.ext_iff, eq_comm]

@[simp] theorem State.setRecord_record_self (h : Handle) (r : Option Record) : (s.setRecord h r).record h = r := by
  simp [State.setRecord_record]

@[simp] theorem State.setQuota_quota_self (p : PortId) (n : Nat) : (s.setQuota p n).quota p = n := by
  simp [State.setQuota_quota]

@[simp] theorem State.setSetup_setup_self (d : DomainId) (x : Setup) : (s.setSetup d x).setup d = x := by
  simp [State.setSetup_setup]

@[simp] theorem State.setDomain_domain_self (d : DomainId) (c : Domain) : (s.setDomain d c).domain d = c := by
  simp [State.setDomain_domain]

@[simp] theorem State.setRail_rail_self (v : RailId) (r : Rail) : (s.setRail v r).rail v = r := by
  simp [State.setRail_rail]

@[simp] theorem State.setBox_box_self (p : PortId) (b : Box) : (s.setBox p b).box p = b := by
  simp [State.setBox_box]

@[simp] theorem State.setPort_port_self (p : PortId) (x : Port) : (s.setPort p x).port p = x := by
  simp [State.setPort_port]

@[simp] theorem State.setConfig_config_self (d : DomainId) (c : Configuration) : (s.setConfig d c).config d = c := by
  simp [State.setConfig, State.config]

theorem State.setConfig_config (d e : DomainId) (c : Configuration) :
    (s.setConfig d c).config e = if e = d then c else s.config e := by
  by_cases h : e = d <;> simp [State.setConfig, State.config, State.setSetup_setup, h]

@[simp] theorem State.setConfig_point (d e : DomainId) (c : Configuration) (l : Level) :
    (s.setConfig d c).point e l = s.point e l := by
  by_cases h : e = d <;> simp [State.setConfig, State.point, State.setSetup_setup, h]

@[simp] theorem State.setConfig_code (d e : DomainId) (c : Configuration) (l : Level) :
    (s.setConfig d c).code e l = s.code e l := by simp [State.code]

theorem State.setPoint_point (d e : DomainId) (l m : Level) (x : Point) :
    (s.setPoint d l x).point e m = if e = d ∧ m = l then x else s.point e m := by
  by_cases h : e = d
  · subst h
    simp [State.setPoint, State.point, Vector.getElem_set, Fin.ext_iff, eq_comm]
  · simp [State.setPoint, State.point, State.setSetup_setup, h]

@[simp] theorem State.setPoint_config (d e : DomainId) (l : Level) (x : Point) :
    (s.setPoint d l x).config e = s.config e := by
  by_cases h : e = d <;> simp [State.setPoint, State.config, State.setSetup_setup, h]

@[simp] theorem State.setPoint_railOf (d e : DomainId) (l : Level) (x : Point) :
    (s.setPoint d l x).railOf e = s.railOf e := by simp [State.railOf]

theorem State.mapRecords_record (f : Record → Record) (h : Handle) :
    (s.mapRecords f).record h = (s.record h).map f := by
  simp [State.record, State.mapRecords, mapAll]

/-! ### States that agree in every field -/

/-- Two states are equal when their fields are. -/
theorem State.eq_of_fields {s t : State} (h1 : s.phase = t.phase) (h2 : s.records = t.records)
    (h3 : s.quotas = t.quotas) (h4 : s.reports = t.reports) (h5 : s.setups = t.setups) (h6 : s.domains = t.domains)
    (h7 : s.rails = t.rails) (h8 : s.link = t.link) (h9 : s.park = t.park) (h10 : s.boxes = t.boxes)
    (h11 : s.raised = t.raised) (h12 : s.ports = t.ports) (hs : s.sdo = t.sdo) (h13 : s.pins = t.pins)
    (h14 : s.bus = t.bus) (h15 : s.choices = t.choices) (h16 : s.pending = t.pending) : s = t := by
  cases s; cases t; simp_all

end Sys2Proof.Machine
end

