-- ==== Sys2Proof/Laws/Table.lean ====
section
/-! SUPPORT. The demand table: what its views find, what retirement and reports leave, and how live counts change. -/

namespace Sys2Proof.Machine

/-! ### The live records -/

theorem State.mem_live {s : State} {x : Handle × Record} : x ∈ s.live ↔ s.record x.1 = some x.2 := by
  obtain ⟨h, r⟩ := x
  simp [State.live, allHandles]

theorem State.live_ascending (s : State) : s.live.Pairwise fun x y => x.1 < y.1 := by
  have h : (List.finRange 64).Pairwise (· < ·) := List.pairwise_lt_finRange 64
  rw [State.live, List.pairwise_filterMap]
  refine h.imp ?_
  intro a b hab x hx y hy
  simp at hx hy
  obtain ⟨_, _, rfl⟩ := hx
  obtain ⟨_, _, rfl⟩ := hy
  exact hab

theorem State.live_nodup (s : State) : (s.live.map Prod.fst).Nodup := by
  have h := s.live_ascending
  rw [List.nodup_iff_pairwise_ne, List.pairwise_map]
  exact h.imp fun hab => ne_of_lt hab

theorem State.live_eq_nil {s : State} : s.live = [] ↔ ∀ h, s.record h = none := by
  simp [State.live, allHandles, List.filterMap_eq_nil_iff]

theorem State.live_congr {s t : State} (h : t.records = s.records) : t.live = s.live := by
  simp [State.live, State.record, h]

theorem State.findKey_eq_none {s : State} {p : PortId} {d : DomainId} {cls : DemandClass} :
    s.findKey p d cls = none ↔ s.NoKey p d cls := by
  simp only [State.findKey, List.find?_eq_none, State.NoKey]
  constructor
  · intro h k r hr
    have := h (k, r) (State.mem_live.2 hr)
    simpa [and_assoc] using this
  · intro h x hx
    have := h x.1 x.2 (State.mem_live.1 hx)
    simpa [and_assoc] using this

theorem State.record_of_findKey {s : State} {p : PortId} {d : DomainId} {cls : DemandClass} {x : Handle × Record}
    (h : s.findKey p d cls = some x) :
    s.record x.1 = some x.2 ∧ x.2.owner = p ∧ x.2.domain = d ∧ x.2.cls = cls := by
  have hp := List.find?_some h
  simp at hp
  exact ⟨State.mem_live.1 (List.mem_of_find?_eq_some h), hp.1.1, hp.1.2, hp.2⟩

theorem State.findKey_eq_some {s : State} {h : Handle} {r : Record} (hk : s.KeysUnique) (hr : s.record h = some r) :
    s.findKey r.owner r.domain r.cls = some (h, r) := by
  cases hq : s.findKey r.owner r.domain r.cls with
  | none => exact absurd ⟨rfl, rfl, rfl⟩ (State.findKey_eq_none.1 hq h r hr)
  | some x =>
    obtain ⟨h1, h2, h3, h4⟩ := State.record_of_findKey hq
    have hx : x.1 = h := hk x.1 h x.2 h1 r hr h2 h3 h4
    rw [hx, hr] at h1
    cases h1
    rw [← hx]

theorem State.lowestFree_eq_some {s : State} {h : Handle} : s.lowestFree = some h ↔ s.LowestFree h := by
  have hs : allHandles.Pairwise (· < ·) := List.pairwise_lt_finRange 64
  rw [State.lowestFree, List.find?_eq_some_iff_append]
  constructor
  · rintro ⟨h1, a, b, hab, ha⟩
    refine ⟨by simpa using h1, fun k hk => ?_⟩
    have hm : k ∈ allHandles := List.mem_finRange k
    rw [hab] at hm hs
    rw [List.pairwise_append] at hs
    rcases List.mem_append.1 hm with hm | hm
    · have := ha k hm
      intro hn
      simp [hn] at this
    · rcases List.mem_cons.1 hm with rfl | hm
      · exact absurd hk (lt_irrefl _)
      · exact absurd (hk.trans (List.rel_of_pairwise_cons hs.2.1 hm)) (lt_irrefl _)
  · rintro ⟨h1, h2⟩
    refine ⟨by simp [h1], ?_⟩
    obtain ⟨a, b, hab⟩ : ∃ a b, allHandles = a ++ h :: b := List.append_of_mem (List.mem_finRange h)
    refine ⟨a, b, hab, fun k hk => ?_⟩
    rw [hab, List.pairwise_append] at hs
    have := h2 k (hs.2.2 k hk h (by simp))
    simpa [Option.ne_none_iff_isSome] using this

theorem State.lowestFree_eq_none {s : State} : s.lowestFree = none ↔ ∀ h, s.record h ≠ none := by
  simp [State.lowestFree, allHandles]

theorem State.hasFloor_iff {s : State} {d : DomainId} :
    s.hasFloor d = true ↔ ∃ h, ∃ r ∈ s.record h, r.domain = d ∧ r.cls = .floor := by
  simp only [State.hasFloor, List.any_eq_true, Bool.and_eq_true, decide_eq_true_eq]
  exact ⟨fun ⟨x, hx, h⟩ => ⟨x.1, x.2, State.mem_live.1 hx, h⟩, fun ⟨h, r, hr, k⟩ => ⟨(h, r), State.mem_live.2 hr, k⟩⟩

theorem State.wanted_iff {s : State} {d : DomainId} :
    s.wanted d = true ↔ (∃ h, ∃ r ∈ s.record h, r.domain = d ∧ r.cls = .floor) ∨ (s.domain d).force ≠ none := by
  simp [State.wanted, State.hasFloor_iff, Option.isSome_iff_ne_none]

/-! ### Live counts (R4) -/

/-- The live count of a port counts the handles whose record it owns. -/
theorem State.liveCount_eq (s : State) (p : PortId) :
    s.liveCount p = allHandles.countP fun h => (s.record h).any fun r => r.owner = p := by
  rw [State.liveCount, State.live, ← List.countP_eq_length_filter, List.countP_filterMap]
  refine List.countP_congr fun h _ => ?_
  cases s.record h <;> simp

/-- No record gained, and none changed hands: no live count rises. -/
theorem State.liveCount_le {s t : State} (p : PortId)
    (h : ∀ k, ∀ r ∈ t.record k, r.owner = p → ∃ q ∈ s.record k, q.owner = p) : t.liveCount p ≤ s.liveCount p := by
  rw [State.liveCount_eq, State.liveCount_eq]
  refine List.countP_mono_left fun k _ hk => ?_
  cases ht : t.record k with
  | none => simp [ht] at hk
  | some r =>
    simp only [ht, Option.any_some, decide_eq_true_eq] at hk
    obtain ⟨q, hq, ho⟩ := h k r ht hk
    simp only [Option.mem_def] at hq
    simp [hq, ho]

/-- A record at a free handle adds one to the live count of its owner, and nothing to any other. -/
theorem State.liveCount_setRecord_new {s : State} {h : Handle} {r : Record} (hn : s.record h = none) (p : PortId) :
    (s.setRecord h (some r)).liveCount p = s.liveCount p + if r.owner = p then 1 else 0 := by
  have hs : allHandles.Nodup := List.nodup_finRange 64
  obtain ⟨a, b, hab⟩ : ∃ a b, allHandles = a ++ h :: b := List.append_of_mem (List.mem_finRange h)
  have hab' := hab
  rw [hab] at hs
  have ha : h ∉ a := fun hm => (List.nodup_append.1 hs).2.2 h hm h (by simp) rfl
  have hb : h ∉ b := (List.nodup_cons.1 (List.nodup_append.1 hs).2.1).1
  have same : ∀ l : List Handle, h ∉ l →
      (l.countP fun k => ((s.setRecord h (some r)).record k).any fun q => q.owner = p) =
        l.countP fun k => (s.record k).any fun q => q.owner = p := by
    intro l hl
    refine List.countP_congr fun k hk => ?_
    have : k ≠ h := fun e => hl (e ▸ hk)
    simp [State.setRecord_record, this]
  rw [State.liveCount_eq, State.liveCount_eq, hab', List.countP_append, List.countP_append, List.countP_cons,
    List.countP_cons, same a ha, same b hb]
  simp [hn]
  omega

/-! ### Removing notices, retiring records (R9, R16, R142) -/

/-! The fields of a box after a change -/

@[simp] theorem Box.become_pending (b c : Box) : (b.become c).pending = c.pending := rfl
@[simp] theorem Box.become_lost (b c : Box) : (b.become c).lost = c.lost := rfl
@[simp] theorem Box.become_leaving (b c : Box) : (b.become c).leaving = c.leaving := rfl
@[simp] theorem Box.become_alerting (b c : Box) : (b.become c).alerting = c.alerting := rfl

/-- The count moves with the ALERT condition alone. -/
theorem Box.become_turns (b c : Box) :
    (b.become c).turns = if c.alerting = b.alerting then b.turns else b.turns + 1 := rfl

/-- Only the count of the box before and the other fields of the one after go into the change. -/
@[simp] theorem Box.become_become (b c d : Box) : b.become (c.become d) = b.become d := rfl

theorem Box.alerting_eq_true {b : Box} : b.alerting = true ↔ b.pending ≠ [] ∨ b.lost = true := by
  simp [Box.alerting]

/-- ALERT of a port, and the last ALERT of what its first bits find, are one. -/
theorem State.view_alert (s : State) (p : PortId) : (s.view p).alert = s.alert p := rfl

@[simp] theorem Box.dropStanding_lost (b : Box) (h : Handle) : (b.dropStanding h).lost = b.lost := rfl
@[simp] theorem Box.dropStanding_leaving (b : Box) (h : Handle) : (b.dropStanding h).leaving = b.leaving := rfl

theorem Box.mem_dropStanding {b : Box} {h : Handle} {n : Notice} :
    n ∈ (b.dropStanding h).pending ↔ n ∈ b.pending ∧ n.standing ≠ some h := by
  simp [Box.dropStanding, Box.become]

@[simp] theorem Box.leave_pending (b : Box) (h : Handle) : (b.leave h).pending = b.pending := by
  unfold Box.leave; split <;> rfl

@[simp] theorem Box.leave_lost (b : Box) (h : Handle) : (b.leave h).lost = b.lost := by
  unfold Box.leave; split <;> rfl

theorem Box.mem_leave {b : Box} {h k : Handle} : k ∈ (b.leave h).leaving ↔ k ∈ b.leaving ∨ k = h := by
  unfold Box.leave
  split
  · exact ⟨Or.inl, fun x => x.elim id fun e => e ▸ ‹_›⟩
  · simp

/-- Retirement takes one record and its standing notice, and leaves all else. -/
theorem State.retire_eq {s : State} {h : Handle} {r : Record} (hr : s.record h = some r) :
    s.retire h = (s.setRecord h none).setBox r.owner ((s.box r.owner).dropStanding h) := by
  simp [State.retire, hr, State.dropStanding]

theorem State.retire_of_none {s : State} {h : Handle} (hr : s.record h = none) : s.retire h = s := by
  simp [State.retire, hr]

/-- Retirement with a notice takes one record and notes its handle, and leaves all else. -/
theorem State.retireNotified_eq {s : State} {h : Handle} {r : Record} (hr : s.record h = some r) :
    s.retireNotified h = (s.setRecord h none).setBox r.owner ((s.box r.owner).leave h) := by
  simp [State.retireNotified, hr]

theorem State.retireNotified_of_none {s : State} {h : Handle} (hr : s.record h = none) : s.retireNotified h = s := by
  simp [State.retireNotified, hr]

theorem State.retire_record (s : State) (h k : Handle) :
    (s.retire h).record k = if k = h then none else s.record k := by
  cases hr : s.record h with
  | none =>
    rw [State.retire_of_none hr]
    by_cases e : k = h <;> simp [e, hr]
  | some r => simp [State.retire_eq hr, State.setRecord_record]

theorem State.retireNotified_record (s : State) (h k : Handle) :
    (s.retireNotified h).record k = if k = h then none else s.record k := by
  cases hr : s.record h with
  | none =>
    rw [State.retireNotified_of_none hr]
    by_cases e : k = h <;> simp [e, hr]
  | some r => simp [State.retireNotified_eq hr, State.setRecord_record]

theorem State.retire_box (s : State) (h : Handle) (p : PortId) :
    (s.retire h).box p = if (s.record h).any (fun r => r.owner = p) then (s.box p).dropStanding h else s.box p := by
  cases hr : s.record h with
  | none => simp [State.retire_of_none hr]
  | some r =>
    by_cases e : p = r.owner
    · simp [State.retire_eq hr, e]
    · have e' : r.owner ≠ p := fun x => e x.symm
      simp [State.retire_eq hr, State.setBox_box, e, e']

theorem State.retireNotified_box (s : State) (h : Handle) (p : PortId) :
    (s.retireNotified h).box p = if (s.record h).any (fun r => r.owner = p) then (s.box p).leave h else s.box p := by
  cases hr : s.record h with
  | none => simp [State.retireNotified_of_none hr]
  | some r =>
    by_cases e : p = r.owner
    · simp [State.retireNotified_eq hr, e]
    · have e' : r.owner ≠ p := fun x => e x.symm
      simp [State.retireNotified_eq hr, State.setBox_box, e, e']

/-- Retirement changes the table and the pending sets, and nothing else. -/
theorem State.retire_frame (s : State) (h : Handle) :
    s.retire h = { s with records := (s.retire h).records, boxes := (s.retire h).boxes } := by
  cases hr : s.record h with
  | none => simp [State.retire_of_none hr]
  | some r => simp [State.retire_eq hr, State.setBox, State.setRecord]

theorem State.retireNotified_frame (s : State) (h : Handle) :
    s.retireNotified h = { s with records := (s.retireNotified h).records, boxes := (s.retireNotified h).boxes } := by
  cases hr : s.record h with
  | none => simp [State.retireNotified_of_none hr]
  | some r => simp [State.retireNotified_eq hr, State.setBox, State.setRecord]

/-! ### Several retirements in one event, either way -/

/-- Several retirements change what one of them changes. -/
theorem State.foldl_out_frame {out : State → Handle → State}
    (hf : ∀ s h, out s h = { s with records := (out s h).records, boxes := (out s h).boxes }) (s : State)
    (hs : List Handle) :
    hs.foldl out s = { s with records := (hs.foldl out s).records, boxes := (hs.foldl out s).boxes } := by
  induction hs generalizing s with
  | nil => rfl
  | cons h hs ih =>
    have := ih (out s h)
    rw [List.foldl_cons, this, hf s h]

theorem State.foldl_out_record {out : State → Handle → State}
    (hr : ∀ s h k, (out s h).record k = if k = h then none else s.record k) (s : State) (hs : List Handle)
    (k : Handle) : (hs.foldl out s).record k = if k ∈ hs then none else s.record k := by
  induction hs generalizing s with
  | nil => simp
  | cons h hs ih =>
    have := ih (out s h)
    rw [List.foldl_cons, this, hr]
    by_cases e : k ∈ hs <;> by_cases e' : k = h <;> simp [e, e']

theorem State.foldl_retire_lost (s : State) (hs : List Handle) (p : PortId) :
    ((hs.foldl State.retire s).box p).lost = (s.box p).lost := by
  induction hs generalizing s with
  | nil => rfl
  | cons h hs ih =>
    have := ih (s.retire h)
    rw [List.foldl_cons, this, State.retire_box]
    split <;> rfl

theorem State.foldl_retire_leaving (s : State) (hs : List Handle) (p : PortId) :
    ((hs.foldl State.retire s).box p).leaving = (s.box p).leaving := by
  induction hs generalizing s with
  | nil => rfl
  | cons h hs ih =>
    have := ih (s.retire h)
    rw [List.foldl_cons, this, State.retire_box]
    split <;> rfl

/-- Retirements only take ALERT away, and however many of them one event makes, its count moves at most once. -/
theorem State.foldl_retire_turns (s : State) (hs : List Handle) (p : PortId) :
    ((hs.foldl State.retire s).box p).turns = ((s.box p).become ((hs.foldl State.retire s).box p)).turns ∧
    (((hs.foldl State.retire s).box p).alerting = true → (s.box p).alerting = true) := by
  induction hs generalizing s with
  | nil => simp [Box.become_turns]
  | cons h hs ih =>
    obtain ⟨h1, h2⟩ := ih (s.retire h)
    obtain ⟨d1, d2⟩ : ((s.retire h).box p).turns = ((s.box p).become ((s.retire h).box p)).turns ∧
        (((s.retire h).box p).alerting = true → (s.box p).alerting = true) := by
      rw [State.retire_box]
      split
      · refine ⟨rfl, fun ha => ?_⟩
        rw [Box.alerting_eq_true] at ha ⊢
        exact ha.imp (fun hn e => hn (by simp [Box.dropStanding, e])) id
      · exact ⟨by simp [Box.become_turns], id⟩
    rw [List.foldl_cons]
    refine ⟨?_, fun ha => d2 (h2 ha)⟩
    rw [h1, Box.become_turns, d1, Box.become_turns, Box.become_turns]
    revert h2 d2
    generalize ((hs.foldl State.retire (s.retire h)).box p).alerting = a
    generalize ((s.retire h).box p).alerting = b
    generalize (s.box p).alerting = c
    cases a <;> cases b <;> cases c <;> simp

/-- Retirements with notices leave the pending sets and lost flags alone until the notices arrive. -/
theorem State.foldl_retireNotified_box (s : State) (hs : List Handle) (p : PortId) :
    ((hs.foldl State.retireNotified s).box p).pending = (s.box p).pending ∧
    ((hs.foldl State.retireNotified s).box p).lost = (s.box p).lost := by
  induction hs generalizing s with
  | nil => exact ⟨rfl, rfl⟩
  | cons h hs ih =>
    have := ih (s.retireNotified h)
    rw [List.foldl_cons, this.1, this.2, State.retireNotified_box]
    split <;> simp

/-- They note the handles of the retired records of the port. -/
theorem State.mem_foldl_retireNotified_leaving (s : State) (hs : List Handle) (p : PortId) (k : Handle) :
    k ∈ ((hs.foldl State.retireNotified s).box p).leaving ↔
      k ∈ (s.box p).leaving ∨ (k ∈ hs ∧ ∃ r ∈ s.record k, r.owner = p) := by
  induction hs generalizing s with
  | nil => simp
  | cons h hs ih =>
    have := ih (s.retireNotified h)
    rw [List.foldl_cons, this, State.retireNotified_box, State.retireNotified_record]
    by_cases e : k = h
    · subst e
      cases hr : s.record k with
      | none => simp
      | some r => by_cases o : r.owner = p <;> simp [o, Box.mem_leave]
    · cases hr : s.record h with
      | none => simp [e]
      | some r => by_cases o : r.owner = p <;> simp [o, Box.mem_leave, e]

/-- What several retirements leave of a pending set: all but the standing notices of the retired records of its port. -/
theorem State.mem_foldl_retire_box (s : State) (hs : List Handle) (p : PortId) (n : Notice) :
    n ∈ ((hs.foldl State.retire s).box p).pending ↔
      n ∈ (s.box p).pending ∧ ∀ h ∈ hs, n.standing = some h → ∀ r ∈ s.record h, r.owner ≠ p := by
  induction hs generalizing s with
  | nil => simp
  | cons h hs ih =>
    have := ih (s.retire h)
    rw [List.foldl_cons, this, State.retire_box]
    simp only [State.retire_record, List.mem_cons, forall_eq_or_imp]
    have inner : (∀ k ∈ hs, n.standing = some k → ∀ r ∈ (if k = h then none else s.record k), r.owner ≠ p) ↔
        ∀ k ∈ hs, n.standing = some k → k = h ∨ ∀ r ∈ s.record k, r.owner ≠ p := by
      refine forall₂_congr fun k _ => imp_congr_right fun _ => ?_
      by_cases e : k = h <;> simp [e]
    rw [inner]
    cases hr : s.record h with
    | none =>
      simp only [Option.any_none, Bool.false_eq_true, if_false, Option.mem_def, reduceCtorEq, false_imp_iff,
        implies_true, true_and]
      refine and_congr_right fun _ => forall₂_congr fun k _ => imp_congr_right fun _ => ?_
      constructor
      · rintro (rfl | h') r hq
        · rw [hr] at hq; cases hq
        · exact h' r hq
      · exact Or.inr
    | some r =>
      by_cases e : r.owner = p
      · simp only [Option.any_some, e, decide_true, if_true, Box.mem_dropStanding, Option.mem_def,
          Option.some.injEq, forall_eq', ne_eq, not_true, imp_false]
        constructor
        · rintro ⟨⟨h1, h2⟩, h3⟩
          refine ⟨h1, h2, fun k hk hn => ?_⟩
          rcases h3 k hk hn with rfl | h4
          · exact absurd hn h2
          · exact h4
        · rintro ⟨h1, h2, h3⟩
          exact ⟨⟨h1, h2⟩, fun k hk hn => Or.inr (h3 k hk hn)⟩
      · simp only [Option.any_some, e, decide_false, Bool.false_eq_true, if_false, Option.mem_def, Option.some.injEq,
          forall_eq', ne_eq, not_false_iff, implies_true, true_and]
        refine and_congr_right fun _ => forall₂_congr fun k _ => imp_congr_right fun _ => ?_
        constructor
        · rintro (rfl | h') q hq
          · rw [hr] at hq; cases hq; exact e
          · exact h' q hq
        · exact Or.inr

/-- Retirement of a selection of the live records, with its reports. -/
theorem State.retireSelected_eq {out : State → Handle → State}
    (hf : ∀ s h, out s h = { s with records := (out s h).records, boxes := (out s h).boxes }) (s : State)
    (gone : List (Handle × Record)) :
    s.retireSelected out gone = { s with
      records := ((gone.map Prod.fst).foldl out s).records
      boxes := ((gone.map Prod.fst).foldl out s).boxes
      reports := s.reports ++ retirementReports gone } := by
  unfold State.retireSelected
  rw [State.foldl_out_frame hf]

theorem State.retireSelected_record {out : State → Handle → State}
    (hr : ∀ s h k, (out s h).record k = if k = h then none else s.record k) (s : State)
    (gone : List (Handle × Record)) (k : Handle) :
    (s.retireSelected out gone).record k = if k ∈ gone.map Prod.fst then none else s.record k :=
  State.foldl_out_record hr s (gone.map Prod.fst) k

theorem State.mem_retireSelected_box (s : State) (gone : List (Handle × Record)) (p : PortId) (n : Notice) :
    n ∈ ((s.retireSelected State.retire gone).box p).pending ↔
      n ∈ (s.box p).pending ∧ ∀ h ∈ gone.map Prod.fst, n.standing = some h → ∀ r ∈ s.record h, r.owner ≠ p :=
  s.mem_foldl_retire_box (gone.map Prod.fst) p n

/-- A report is of a domain with a record among those retired, and names exactly the records that lie on it. -/
theorem mem_retirementReports {gone : List (Handle × Record)} {r : Report} :
    r ∈ retirementReports gone ↔ (∃ x ∈ gone, x.2.domain = r.domain) ∧
      r.items = (gone.filter fun x => x.2.domain = r.domain).map fun x => (x.1, .retired) := by
  obtain ⟨d, items⟩ := r
  simp only [retirementReports, allDomains, List.mem_filterMap, List.mem_finRange, true_and]
  constructor
  · rintro ⟨e, he⟩
    split at he
    · cases he
    · rename_i hne
      simp only [Option.some.injEq, Report.mk.injEq] at he
      obtain ⟨rfl, rfl⟩ := he
      refine ⟨?_, rfl⟩
      obtain ⟨x, hx⟩ := List.exists_mem_of_ne_nil _ hne
      exact ⟨x, (List.mem_filter.1 hx).1, by simpa using (List.mem_filter.1 hx).2⟩
  · rintro ⟨⟨x, hx, hd⟩, hi⟩
    refine ⟨d, ?_⟩
    have : (gone.filter fun x => x.2.domain = d) ≠ [] :=
      List.ne_nil_of_mem (List.mem_filter.2 ⟨hx, by simpa using hd⟩)
    simp [this, hi]

end Sys2Proof.Machine
end

