-- ==== Sys2Proof/Laws/Notices.lean ====
section
/-! SUPPORT. The notice unit: a pending set stays as R140 has it through every placing and removing, and what placing
and taking a notice leave. -/

namespace Sys2Proof

theorem Notice.same_comm (m n : Notice) : m.same n = n.same m := by
  cases m <;> cases n <;> simp [Notice.same, eq_comm]

theorem Notice.opposes_comm (m n : Notice) : m.opposes n = n.opposes m := by
  cases m <;> cases n <;> simp [Notice.opposes, eq_comm]

@[simp] theorem Notice.same_self (n : Notice) : n.same n = true := by
  cases n <;> simp [Notice.same]

/-- Notices of the same kind and subject are the same to any third. -/
theorem Notice.same_congr {m n k : Notice} (h : n.same m = true) : n.same k = m.same k := by
  cases m <;> cases n <;> simp [Notice.same] at h <;> cases k <;> simp [Notice.same, h]

theorem Notice.opposes_congr {m n k : Notice} (h : n.same m = true) : n.opposes k = m.opposes k := by
  cases m <;> cases n <;> simp [Notice.same] at h <;> cases k <;> simp [Notice.opposes, h]

end Sys2Proof

namespace Sys2Proof.Machine

/-! ### The pending set of one port (R140, R141, R143) -/

/-- The four cases of a placing, by name (R141). -/
theorem Box.join_cases (b : Box) (n : Notice) :
    let kept := b.pending.filter fun m => !n.opposes m
    ((∃ m ∈ kept, n.same m = true) ∧
      b.join n = { b with pending := kept.map fun m => if n.same m then n else m }) ∨
    ((∀ m ∈ kept, n.same m = false) ∧ kept.length < 16 ∧ b.join n = { b with pending := kept ++ [n] }) ∨
    ((∀ m ∈ kept, n.same m = false) ∧ 16 ≤ kept.length ∧ b.join n = { b with pending := kept, lost := true }) := by
  simp only [Box.join, Config.boxCapacity]
  by_cases h : ((b.pending.filter fun m => !n.opposes m).any fun m => n.same m) = true
  · exact Or.inl ⟨by simpa [and_assoc] using h, by rw [if_pos h]⟩
  · have h' : ∀ m ∈ b.pending.filter fun m => !n.opposes m, n.same m = false := by simpa using h
    rw [if_neg h]
    by_cases k : (b.pending.filter fun m => !n.opposes m).length < 16
    · exact Or.inr (Or.inl ⟨h', k, if_pos k⟩)
    · exact Or.inr (Or.inr ⟨h', Nat.le_of_not_lt k, if_neg k⟩)

/-- Placing a notice keeps a pending set as R140 has it. -/
theorem Box.Sound.join {b : Box} (h : b.Sound) (n : Notice) : (b.join n).Sound := by
  obtain ⟨hl, hp⟩ := h
  have hk : (b.pending.filter fun m => !n.opposes m).Pairwise fun m k => k.same m = false ∧ k.opposes m = false :=
    hp.sublist List.filter_sublist
  have hlk : (b.pending.filter fun m => !n.opposes m).length ≤ 16 := (List.length_filter_le _ _).trans hl
  have ho : ∀ m ∈ b.pending.filter fun m => !n.opposes m, n.opposes m = false := fun m hm => by
    simpa using (List.mem_filter.1 hm).2
  rcases b.join_cases n with ⟨-, e⟩ | ⟨hn, hlt, e⟩ | ⟨-, -, e⟩ <;> rw [e]
  · refine ⟨by simpa using hlk, ?_⟩
    rw [List.pairwise_map]
    refine (List.Pairwise.and_mem.1 hk).imp ?_
    rintro m k ⟨hm, hkm, h1, h2⟩
    by_cases e1 : n.same m = true
    · have e2 : n.same k = false := by rw [Notice.same_congr e1, Notice.same_comm, h1]
      simp [e1, e2, Notice.same_comm k n, Notice.opposes_comm k n, ho k hkm]
    · have e1' : n.same m = false := by simpa using e1
      by_cases e2 : n.same k = true
      · simp [e1', e2, ho m hm]
      · simp [e1', e2, h1, h2]
  · refine ⟨by simpa using hlt, ?_⟩
    rw [List.pairwise_append]
    refine ⟨hk, by simp, fun m hm k hkn => ?_⟩
    rw [List.mem_singleton.1 hkn]
    exact ⟨hn m hm, ho m hm⟩
  · exact ⟨hlk, hk⟩

/-- Removing standing notices keeps it too. -/
theorem Box.Sound.dropStanding {b : Box} (h : b.Sound) (k : Handle) : (b.dropStanding k).Sound :=
  ⟨(List.length_filter_le _ _).trans h.1, h.2.sublist List.filter_sublist⟩

/-- Soundness reads the pending set alone. -/
theorem Box.Sound.congr {b c : Box} (h : b.Sound) (e : c.pending = b.pending) : c.Sound := by
  unfold Box.Sound
  rw [e]
  exact h

theorem Box.Sound.clear {b : Box} (h : b.Sound) (k : Handle) : (b.clear k).Sound := by
  unfold Box.clear
  split
  · exact (h.dropStanding k).congr rfl
  · exact h

/-- An arrival keeps it: the removal that goes with the notice, and the placing. -/
theorem Box.Sound.place {b : Box} (h : b.Sound) (n : Notice) : (b.place n).Sound := by
  unfold Box.place
  refine Box.Sound.congr (b := match n.handle with
    | some h => (b.clear h).join n
    | none => b.join n) ?_ rfl
  split
  · exact (h.clear _).join n
  · exact h.join n

theorem Box.Sound.empty (lost : Bool) (leaving : List Handle) (turns : Nat) :
    Box.Sound { pending := [], lost := lost, leaving := leaving, turns := turns } := ⟨Nat.zero_le _, List.Pairwise.nil⟩

/-- Taking the oldest notice keeps it. -/
theorem Box.Sound.tail {b c : Box} {n : Notice} (h : b.Sound) (e : b.pending = n :: c.pending) : c.Sound := by
  unfold Box.Sound at h
  rw [e] at h
  exact ⟨(Nat.le_succ _).trans h.1, (List.pairwise_cons.1 h.2).2⟩

/-! ### What one arrival leaves (R141, R142) -/

/-- A notice that is no record notice makes no removal. -/
theorem Box.place_of_handle_none {b : Box} {n : Notice} (h : n.handle = none) : b.place n = b.become (b.join n) := by
  simp [Box.place, h]

/-- An arrival leaves ALERT asserted (R146). -/
theorem Box.place_alerting (b : Box) (n : Notice) : (b.place n).alerting = true := by
  have hj : ∀ c : Box, (c.join n).alerting = true := fun c => by
    rw [Box.alerting_eq_true]
    rcases c.join_cases n with ⟨⟨m, hm, -⟩, e⟩ | ⟨-, -, e⟩ | ⟨-, -, e⟩ <;> rw [e]
    · exact Or.inl fun h => by simp only [List.map_eq_nil_iff] at h; rw [h] at hm; cases hm
    · exact Or.inl (by simp)
    · exact Or.inr rfl
  unfold Box.place
  rw [Box.become_alerting]
  split <;> exact hj _

/-- A record notice of a handle for which no removal is due makes none. -/
theorem Box.place_of_not_leaving {b : Box} {n : Notice} (h : ∀ k ∈ n.handle, k ∉ b.leaving) :
    b.place n = b.become (b.join n) := by
  cases e : n.handle with
  | none => exact Box.place_of_handle_none e
  | some k => simp [Box.place, e, Box.clear, h k (by simp [e])]

/-- The first record notice of a handle after its retirement takes the retired record's IN_FORCE or CLAMPED with it. -/
theorem Box.place_of_leaving {b : Box} {n : Notice} {h : Handle} (e : n.handle = some h) (hl : h ∈ b.leaving) :
    b.place n = b.become (Box.join { b.dropStanding h with leaving := b.leaving.filter fun k => k ≠ h } n) := by
  simp [Box.place, e, Box.clear, hl]

/-! ### All pending sets -/

theorem State.BoxesSound.setBox {s : State} (h : s.BoxesSound) {p : PortId} {b : Box} (hb : b.Sound) :
    (s.setBox p b).BoxesSound := by
  intro q
  rw [State.setBox_box]
  split
  · exact hb
  · exact h q

theorem State.BoxesSound.place {s : State} (h : s.BoxesSound) (x : PortId × Notice) : (s.place x).BoxesSound :=
  h.setBox ((h x.1).place x.2)

theorem State.BoxesSound.placeAll {s : State} (h : s.BoxesSound) (xs : List (PortId × Notice)) :
    (s.placeAll xs).BoxesSound := by
  induction xs generalizing s with
  | nil => exact h
  | cons x xs ih => exact ih (h.place x)

theorem State.BoxesSound.retire {s : State} (hs : s.BoxesSound) (h : Handle) : (s.retire h).BoxesSound := by
  intro p
  rw [State.retire_box]
  split
  · exact (hs p).dropStanding h
  · exact hs p

theorem State.BoxesSound.retireNotified {s : State} (hs : s.BoxesSound) (h : Handle) :
    (s.retireNotified h).BoxesSound := by
  intro p
  rw [State.retireNotified_box]
  split
  · exact (hs p).congr (Box.leave_pending _ h)
  · exact hs p

theorem State.BoxesSound.foldl {out : State → Handle → State}
    (ho : ∀ s : State, s.BoxesSound → ∀ h, (out s h).BoxesSound) {s : State} (hs : s.BoxesSound) (xs : List Handle) :
    (xs.foldl out s).BoxesSound := by
  induction xs generalizing s with
  | nil => exact hs
  | cons x xs ih => exact ih (ho s hs x)

/-- Placing notices changes the pending sets and nothing else. -/
theorem State.placeAll_frame (s : State) (xs : List (PortId × Notice)) :
    s.placeAll xs = { s with boxes := (s.placeAll xs).boxes } := by
  induction xs generalizing s with
  | nil => rfl
  | cons x xs ih =>
    have := ih (s.place x)
    simp only [State.placeAll, List.foldl_cons] at this ⊢
    rw [this]
    simp [State.place, State.setBox]

/-- What notices placed in order leave of a port's set: its own are placed in their order. -/
theorem State.placeAll_box (s : State) (xs : List (PortId × Notice)) (p : PortId) :
    (s.placeAll xs).box p = ((xs.filter fun x => x.1 = p).map Prod.snd).foldl Box.place (s.box p) := by
  induction xs generalizing s with
  | nil => rfl
  | cons x xs ih =>
    have := ih (s.place x)
    simp only [State.placeAll, List.foldl_cons] at this ⊢
    rw [this]
    by_cases e : x.1 = p
    · subst e; simp [State.place]
    · have e' : p ≠ x.1 := fun h => e h.symm
      simp [State.place, State.setBox_box, e, e']

/-! ### Notices on their way (R142) -/

/-- Raising puts the notices of one event behind those of earlier events, and changes nothing else. -/
theorem State.raise_eq (s : State) (xs : List (PortId × Notice)) :
    s.raise xs = { s with raised := if xs = [] then s.raised else s.raised ++ [xs] } := by
  unfold State.raise
  split <;> rfl

/-- Taking the first notice of a port leaves the others in their order. -/
theorem takeFirst_append (p : PortId) (n : Notice) (ahead behind : List (PortId × Notice)) (h : ∀ x ∈ ahead, x.1 ≠ p) :
    takeFirst p n (ahead ++ (p, n) :: behind) = some (ahead ++ behind) := by
  induction ahead with
  | nil => simp [takeFirst]
  | cons x xs ih =>
    have hx : x.1 ≠ p := h x (by simp)
    simp [takeFirst, hx, ih fun y hy => h y (List.mem_cons_of_mem x hy)]

/-- Only the first notice of a port can be taken from an event. -/
theorem takeFirst_eq_some {p : PortId} {n : Notice} {xs left : List (PortId × Notice)}
    (h : takeFirst p n xs = some left) :
    ∃ ahead behind, xs = ahead ++ (p, n) :: behind ∧ left = ahead ++ behind ∧ ∀ x ∈ ahead, x.1 ≠ p := by
  induction xs generalizing left with
  | nil => simp [takeFirst] at h
  | cons x xs ih =>
    simp only [takeFirst] at h
    split at h
    · rename_i hx
      split at h
      · rename_i hn
        simp only [Option.some.injEq] at h
        exact ⟨[], xs, by simp [← hx, ← hn], by simp [h], by simp⟩
      · cases h
    · rename_i hx
      rw [Option.map_eq_some_iff] at h
      obtain ⟨ys, hys, rfl⟩ := h
      obtain ⟨a, b, h1, h2, h3⟩ := ih hys
      refine ⟨x :: a, b, by simp [h1], by simp [h2], ?_⟩
      intro y hy
      rcases List.mem_cons.1 hy with rfl | hy
      · exact hx
      · exact h3 y hy

end Sys2Proof.Machine
end

