-- ==== Sys2Proof/Laws/Frame.lean ====
section
/-! SUPPORT. What the operations of one domain controller leave as it was: each of them keeps the frame of its domain,
`State.DomainFrame`, and frames compose. -/

namespace Sys2Proof.Machine

variable {s t u : State} {d : DomainId}

/-! ### Frames compose -/

theorem State.DomainFrame.refl (d : DomainId) (s : State) : s.DomainFrame d s where
  phase := rfl
  quotas := rfl
  reports := rfl
  setups := rfl
  raised := rfl
  ports := rfl
  sdo := rfl
  pins := rfl
  bus := rfl
  choices := rfl
  pending := rfl
  domains := fun _ _ => rfl
  inputs := ⟨rfl, rfl⟩
  rails := fun _ _ => rfl
  rail := ⟨_, _, _, rfl⟩
  outstanding := fun _ _ _ h => h
  link := ⟨_, rfl⟩
  timeout := rfl
  freed := fun _ h => h
  filed := fun _ r h => ⟨r.status, r.acknowledged, r.lastSettled, h⟩
  others := fun _ _ h _ => h
  boxes := fun _ _ => rfl

/-- Equal setups give the same operating points, configurations and rail map. -/
theorem State.setup_congr (h : t.setups = s.setups) (e : DomainId) : t.setup e = s.setup e := by simp [State.setup, h]
theorem State.config_congr (h : t.setups = s.setups) (e : DomainId) : t.config e = s.config e := by
  simp [State.config, State.setup, h]
theorem State.point_congr (h : t.setups = s.setups) (e : DomainId) (l : Level) : t.point e l = s.point e l := by
  simp [State.point, State.setup, h]
theorem State.code_congr (h : t.setups = s.setups) (e : DomainId) (l : Level) : t.code e l = s.code e l := by
  simp [State.code, State.point, State.setup, h]
theorem State.railOf_congr (h : t.setups = s.setups) (e : DomainId) : t.railOf e = s.railOf e := by
  simp [State.railOf, State.config, State.setup, h]

theorem State.DomainFrame.railOf (h : s.DomainFrame d t) (e : DomainId) : t.railOf e = s.railOf e :=
  State.railOf_congr h.setups e
theorem State.DomainFrame.config (h : s.DomainFrame d t) (e : DomainId) : t.config e = s.config e :=
  State.config_congr h.setups e
theorem State.DomainFrame.point (h : s.DomainFrame d t) (e : DomainId) (l : Level) : t.point e l = s.point e l :=
  State.point_congr h.setups e l
theorem State.DomainFrame.code (h : s.DomainFrame d t) (e : DomainId) (l : Level) : t.code e l = s.code e l :=
  State.code_congr h.setups e l

/-- A record after a frame is the record before it, with its status fields as they may be. -/
theorem State.DomainFrame.record_back (h : s.DomainFrame d t) {k : Handle} {q : Record} (hq : t.record k = some q) :
    ∃ r, s.record k = some r ∧ q.owner = r.owner ∧ q.domain = r.domain ∧ q.cls = r.cls ∧ q.level = r.level ∧
      q.tag = r.tag ∧ q.generation = r.generation := by
  cases hr : s.record k with
  | none => rw [h.freed k hr] at hq; cases hq
  | some r =>
    obtain ⟨_, _, _, e⟩ := h.filed k r hr
    rw [e] at hq
    cases hq
    exact ⟨r, rfl, rfl, rfl, rfl, rfl, rfl, rfl⟩

theorem State.DomainFrame.trans (h : s.DomainFrame d t) (k : t.DomainFrame d u) : s.DomainFrame d u where
  phase := k.phase.trans h.phase
  quotas := k.quotas.trans h.quotas
  reports := k.reports.trans h.reports
  setups := k.setups.trans h.setups
  raised := k.raised.trans h.raised
  ports := k.ports.trans h.ports
  sdo := k.sdo.trans h.sdo
  pins := k.pins.trans h.pins
  bus := k.bus.trans h.bus
  choices := k.choices.trans h.choices
  pending := k.pending.trans h.pending
  domains := fun e he => (k.domains e he).trans (h.domains e he)
  inputs := ⟨k.inputs.1.trans h.inputs.1, k.inputs.2.trans h.inputs.2⟩
  rails := fun v hv => (k.rails v (by rwa [h.railOf])).trans (h.rails v hv)
  rail := by
    obtain ⟨a, b, c, e⟩ := h.rail
    obtain ⟨a', b', c', e'⟩ := k.rail
    rw [h.railOf, e] at e'
    exact ⟨a', b', c', e'⟩
  outstanding := fun code tries phase hc => by
    have hk := k.outstanding code tries phase
    rw [h.railOf] at hk
    exact hk (h.outstanding code tries phase hc)
  link := by
    obtain ⟨a, e⟩ := h.link
    obtain ⟨b, e'⟩ := k.link
    rw [e] at e'
    exact ⟨b, e'⟩
  timeout := k.timeout.trans h.timeout
  freed := fun x hx => k.freed x (h.freed x hx)
  filed := fun x r hr => by
    obtain ⟨a, b, c, e⟩ := h.filed x r hr
    obtain ⟨a', b', c', e'⟩ := k.filed x _ e
    exact ⟨a', b', c', e'⟩
  others := fun x r hr hd => k.others x r (h.others x r hr hd) hd
  boxes := fun p hp => by
    rw [k.boxes p, h.boxes p hp]
    intro x q hq hd
    obtain ⟨r, hr, ho, hd', -⟩ := h.record_back hq
    rw [ho]
    exact hp x r hr (hd' ▸ hd)

/-! ### The frames of single changes -/

/-- A change of the domain itself, its force level and line level apart. -/
theorem State.DomainFrame.setDomain (s : State) {d : DomainId} {c : Domain} (hf : c.force = (s.domain d).force)
    (ht : c.throttled = (s.domain d).throttled) : s.DomainFrame d (s.setDomain d c) :=
  { State.DomainFrame.refl d s with
    domains := fun e he => by simp [State.setDomain_domain, he]
    inputs := by simp [hf, ht]
    freed := fun _ h => h
    filed := fun _ r h => ⟨r.status, r.acknowledged, r.lastSettled, h⟩
    others := fun _ _ h _ => h
    rail := ⟨_, _, _, rfl⟩
    link := ⟨_, rfl⟩
    rails := fun _ _ => rfl
    boxes := fun _ _ => rfl }

theorem State.mapRecordsOn_record (s : State) (d : DomainId) (f : Record → Record) (h : Handle) :
    (s.mapRecordsOn d f).record h = (s.record h).map fun r => if r.domain = d then f r else r := by
  simp [State.mapRecordsOn, State.mapRecords_record]

/-- A change of the standing of the records on the domain. -/
theorem State.DomainFrame.mapRecordsOn (s : State) (d : DomainId) {f : Record → Record}
    (hf : ∀ r : Record, ∃ a b c, f r = { r with status := a, acknowledged := b, lastSettled := c }) :
    s.DomainFrame d (s.mapRecordsOn d f) :=
  { State.DomainFrame.refl d s with
    domains := fun _ _ => rfl
    inputs := ⟨rfl, rfl⟩
    rail := ⟨_, _, _, rfl⟩
    link := ⟨_, rfl⟩
    rails := fun _ _ => rfl
    boxes := fun _ _ => rfl
    freed := fun h hr => by simp [State.mapRecordsOn_record, hr]
    filed := fun h r hr => by
      obtain ⟨a, b, c, e⟩ := hf r
      simp only [Option.mem_def] at hr
      by_cases hd : r.domain = d
      · exact ⟨a, b, c, by simp [State.mapRecordsOn_record, hr, hd, e]⟩
      · exact ⟨r.status, r.acknowledged, r.lastSettled, by simp [State.mapRecordsOn_record, hr, hd]⟩
    others := fun h r hr hd => by
      simp only [Option.mem_def] at hr
      simp [State.mapRecordsOn_record, hr, hd] }

/-- A change of the park controller that keeps the consent timeout. -/
theorem State.DomainFrame.setPark (s : State) (d : DomainId) {p : Park} (h : p.timeout = s.park.timeout) :
    s.DomainFrame d { s with park := p } :=
  { State.DomainFrame.refl d s with timeout := h }

/-- A change of the rail the link controller has chosen. -/
theorem State.DomainFrame.elect (s : State) (d : DomainId) (v : Option RailId) :
    s.DomainFrame d { s with link := { s.link with elected := v } } :=
  { State.DomainFrame.refl d s with link := ⟨v, rfl⟩ }

/-- A change of the required code, the command, unless it is outstanding, and the state of the domain's rail. -/
theorem State.DomainFrame.setRail (s : State) (d : DomainId) (a : Byte) (b : Command) (c : RailState)
    (hb : ∀ code tries phase, (s.rail (s.railOf d)).command = .outstanding code tries phase →
      b = .outstanding code tries phase) :
    s.DomainFrame d (s.setRail (s.railOf d) { s.rail (s.railOf d) with required := a, command := b, state := c }) :=
  { State.DomainFrame.refl d s with
    rails := fun v hv => by simp [State.setRail_rail, hv]
    rail := ⟨a, b, c, by simp⟩
    outstanding := fun code tries phase h => by simpa using hb code tries phase h
    domains := fun _ _ => rfl
    inputs := ⟨rfl, rfl⟩
    link := ⟨_, rfl⟩
    freed := fun _ h => h
    filed := fun _ r h => ⟨r.status, r.acknowledged, r.lastSettled, h⟩
    others := fun _ _ h _ => h
    boxes := fun _ _ => rfl }

/-- Notices placed for owners of records on the domain. -/
theorem State.DomainFrame.placeAll (s : State) (d : DomainId) {xs : List (PortId × Notice)}
    (h : ∀ x ∈ xs, ∃ k, ∃ r ∈ s.record k, r.domain = d ∧ r.owner = x.1) : s.DomainFrame d (s.placeAll xs) := by
  rw [s.placeAll_frame xs]
  exact
    { State.DomainFrame.refl d s with
      boxes := fun p hp => by
        have : (xs.filter fun x => x.1 = p) = [] := by
          rw [List.filter_eq_nil_iff]
          intro x hx hxp
          obtain ⟨k, r, hr, hd, ho⟩ := h x hx
          exact hp k r hr hd (ho.trans (by simpa using hxp))
        show (s.placeAll xs).box p = s.box p
        rw [State.placeAll_box, this]
        rfl }

/-! ### The frames of the operations -/

theorem State.evaluate_records (s : State) (d : DomainId) (rule : Record → Option Verdict) (h : Handle) :
    (s.evaluate d rule).record h =
      (s.record h).map fun r => if r.domain = d then ((rule r).map r.judge).getD r else r := by
  unfold State.evaluate
  rw [State.placeAll_frame]
  exact s.mapRecordsOn_record d _ h

theorem State.DomainFrame.evaluate (s : State) (d : DomainId) (rule : Record → Option Verdict) :
    s.DomainFrame d (s.evaluate d rule) := by
  have hm : s.DomainFrame d (s.mapRecordsOn d fun r => ((rule r).map r.judge).getD r) := by
    refine State.DomainFrame.mapRecordsOn s d fun r => ?_
    cases rule r with
    | none => exact ⟨_, _, _, rfl⟩
    | some v => exact ⟨_, _, _, rfl⟩
  refine hm.trans (State.DomainFrame.placeAll _ d fun x hx => ?_)
  obtain ⟨⟨k, r⟩, hk, hx⟩ := List.mem_filterMap.1 hx
  have hr := State.mem_live.1 hk
  simp only at hr
  by_cases hd : r.domain = d
  · obtain ⟨q, hq, ho, hd'⟩ : ∃ q, (s.mapRecordsOn d fun r => ((rule r).map r.judge).getD r).record k = some q ∧
        q.owner = r.owner ∧ q.domain = d := by
      obtain ⟨a, b, c, e⟩ := hm.filed k r hr
      exact ⟨_, e, rfl, hd⟩
    refine ⟨k, q, hq, hd', ho.trans ?_⟩
    simp only [hd, if_true] at hx
    cases hv : rule r with
    | none => simp [hv] at hx
    | some v =>
      simp only [hv, Option.bind_some, evaluationNotice] at hx
      split at hx
      · cases hx
      · cases v <;> simp only [Option.some.injEq] at hx <;> rw [← hx]
  · simp [hd] at hx

theorem State.DomainFrame.resolve (s : State) (d : DomainId) : s.DomainFrame d (s.resolve d) :=
  State.DomainFrame.setDomain s rfl rfl

theorem State.DomainFrame.unsettleRecords (s : State) (d : DomainId) : s.DomainFrame d (s.unsettleRecords d) := by
  refine State.DomainFrame.mapRecordsOn s d fun r => ?_
  unfold Record.unsettle
  split <;> exact ⟨_, _, _, rfl⟩

theorem State.DomainFrame.unholdRecords (s : State) (d : DomainId) : s.DomainFrame d (s.unholdRecords d) := by
  refine State.DomainFrame.mapRecordsOn s d fun r => ?_
  unfold Record.unhold
  split <;> exact ⟨_, _, _, rfl⟩

theorem State.DomainFrame.holdRecords (s : State) (d : DomainId) : s.DomainFrame d (s.holdRecords d) :=
  State.DomainFrame.mapRecordsOn s d fun _ => ⟨_, _, _, rfl⟩

theorem State.DomainFrame.settle (s : State) (d : DomainId) : s.DomainFrame d (s.settle d) := by
  refine State.DomainFrame.trans ?_ (State.DomainFrame.evaluate _ d _)
  exact State.DomainFrame.setDomain s rfl rfl

theorem State.DomainFrame.startStep (s : State) (d : DomainId) (state : DomainState) (l : Level) :
    s.DomainFrame d (s.startStep d state l) := State.DomainFrame.setDomain s rfl rfl

theorem State.DomainFrame.plan (s : State) (d : DomainId) : s.DomainFrame d (s.plan d) := by
  dsimp only [State.plan]
  split
  · exact State.DomainFrame.settle s d
  · refine (State.DomainFrame.setDomain s (c := { s.domain d with settled := false }) rfl rfl).trans
      ((State.DomainFrame.unsettleRecords _ d).trans ?_)
    split
    · exact State.DomainFrame.setDomain _ rfl rfl
    · exact State.DomainFrame.startStep _ d _ _

theorem State.serveConsent_timeout (s : State) : s.serveConsent.park.timeout = s.park.timeout := by
  unfold State.serveConsent
  split
  · cases s.park.queue <;> rfl
  · rfl

theorem State.serveConsent_frame (s : State) : s.serveConsent = { s with park := s.serveConsent.park } := by
  unfold State.serveConsent
  split
  · cases s.park.queue <;> rfl
  · rfl

theorem State.DomainFrame.serveConsent (s : State) (d : DomainId) : s.DomainFrame d s.serveConsent := by
  rw [s.serveConsent_frame]
  exact State.DomainFrame.setPark s d s.serveConsent_timeout

theorem State.DomainFrame.endRequest (s : State) (d : DomainId) : s.DomainFrame d s.endRequest :=
  State.DomainFrame.setPark s d rfl

theorem State.DomainFrame.leaveConsent (s : State) (d e : DomainId) : s.DomainFrame d (s.leaveConsent e) :=
  State.DomainFrame.setPark s d rfl

theorem State.DomainFrame.joinConsent (s : State) (d e : DomainId) : s.DomainFrame d (s.joinConsent e) := by
  unfold State.joinConsent
  split
  · exact State.DomainFrame.refl d s
  · exact State.DomainFrame.setPark s d rfl

theorem State.DomainFrame.denied (s : State) (d : DomainId) : s.DomainFrame d (s.denied d) := by
  refine State.DomainFrame.trans ?_ (State.DomainFrame.plan _ d)
  exact State.DomainFrame.setDomain s rfl rfl

theorem State.DomainFrame.withdraw (s : State) (d : DomainId) : s.DomainFrame d (s.withdraw d) :=
  (State.DomainFrame.leaveConsent s d d).trans
    ((State.DomainFrame.serveConsent _ d).trans (State.DomainFrame.denied _ d))

theorem State.DomainFrame.granted (s : State) (d : DomainId) : s.DomainFrame d (s.granted d) :=
  State.DomainFrame.setDomain s rfl rfl

theorem State.DomainFrame.enterGate (s : State) (d : DomainId) : s.DomainFrame d (s.enterGate d) :=
  State.DomainFrame.setDomain s rfl rfl

theorem State.DomainFrame.checkRailStage (s : State) (d : DomainId) : s.DomainFrame d (s.checkRailStage d) := by
  unfold State.checkRailStage
  split
  · exact State.DomainFrame.enterGate s d
  · exact State.DomainFrame.refl d s

theorem State.DomainFrame.beginWake (s : State) (d : DomainId) : s.DomainFrame d (s.beginWake d) := by
  refine (State.DomainFrame.unsettleRecords s d).trans ?_
  refine State.DomainFrame.trans ?_ (State.DomainFrame.checkRailStage _ d)
  exact State.DomainFrame.setDomain _ rfl rfl

theorem State.DomainFrame.enterParked (s : State) (d : DomainId) : s.DomainFrame d (s.enterParked d) := by
  refine State.DomainFrame.trans ?_ (State.DomainFrame.evaluate _ d _)
  exact State.DomainFrame.setDomain s rfl rfl

theorem State.DomainFrame.enterClock (s : State) (d : DomainId) : s.DomainFrame d (s.enterClock d) := by
  dsimp only [State.enterClock]
  split
  · exact State.DomainFrame.setDomain s rfl rfl
  · exact State.DomainFrame.startStep s d _ _

theorem State.DomainFrame.act (s : State) (d : DomainId) (old : Level) : s.DomainFrame d (s.act d old) := by
  unfold State.act
  split
  · exact State.DomainFrame.plan s d
  · split
    · exact State.DomainFrame.refl d s
    · exact State.DomainFrame.plan s d
  · exact State.DomainFrame.refl d s
  · split
    · exact State.DomainFrame.withdraw s d
    · exact State.DomainFrame.refl d s
  · exact State.DomainFrame.refl d s
  · split
    · exact State.DomainFrame.beginWake s d
    · exact State.DomainFrame.evaluate s d _
  · exact State.DomainFrame.checkRailStage s d
  all_goals exact State.DomainFrame.refl d s

theorem State.DomainFrame.updateQuiet (s : State) (d : DomainId) : s.DomainFrame d (s.updateQuiet d) :=
  State.DomainFrame.setDomain s rfl rfl

theorem State.DomainFrame.refreshNeed (s : State) (d : DomainId) : s.DomainFrame d (s.refreshNeed d) :=
  State.DomainFrame.setDomain s rfl rfl

theorem State.DomainFrame.closeDomain (s : State) (d : DomainId) : s.DomainFrame d (s.closeDomain d) :=
  (State.DomainFrame.updateQuiet s d).trans (State.DomainFrame.refreshNeed _ d)

theorem State.DomainFrame.completeStep (s : State) (d : DomainId) (l : Level) : s.DomainFrame d (s.completeStep d l) :=
  State.DomainFrame.setDomain s rfl rfl

/-- The choice of the next rail changes the chosen rail and nothing else. -/
theorem State.chooseRail_eq (s : State) :
    s.chooseRail = { s with link := { s.link with elected := s.chooseRail.link.elected } } := by
  unfold State.chooseRail
  split
  · rfl
  · split
    · split
      · rfl
      · rfl
    · rfl

theorem State.DomainFrame.chooseRail (s : State) (d : DomainId) : s.DomainFrame d s.chooseRail := by
  rw [s.chooseRail_eq]
  exact State.DomainFrame.elect s d _

theorem State.DomainFrame.reevaluate (s : State) (d : DomainId) : s.DomainFrame d (s.reevaluate (s.railOf d)) := by
  dsimp only [State.reevaluate]
  split
  · exact State.DomainFrame.setRail s d _ _ _ fun _ _ _ h => h
  · refine State.DomainFrame.trans ?_ (State.DomainFrame.chooseRail _ d)
    have h : ∀ r : Rail, ∃ a, r.commandRule = { r with command := a } ∧
        ∀ code tries phase, r.command = .outstanding code tries phase → a = .outstanding code tries phase := by
      intro r
      unfold Rail.commandRule
      split
      · exact ⟨_, rfl, fun _ _ _ h => h⟩
      · rename_i hq
        split <;> exact ⟨_, rfl, fun _ _ _ h => by rw [hq] at h; cases h⟩
      · rename_i hn
        split <;> exact ⟨_, rfl, fun _ _ _ h => by rw [hn] at h; cases h⟩
    obtain ⟨a, e, ha⟩ := h { s.rail (s.railOf d) with required := s.requiredCode (s.railOf d) }
    rw [e]
    exact State.DomainFrame.setRail s d _ _ _ ha

theorem State.DomainFrame.finish (s : State) (d : DomainId) : s.DomainFrame d (s.finish d) := by
  refine (State.DomainFrame.closeDomain s d).trans ?_
  have h := State.DomainFrame.reevaluate (s.closeDomain d) d
  rwa [(State.DomainFrame.closeDomain s d).railOf] at h

end Sys2Proof.Machine
end

