-- ==== Sys2Proof/Laws/Rails.lean ====
section
/-! SUPPORT. The rail controllers and the link controller: what a re-evaluation leaves of a rail, whom the link
controller chooses, and where news of an assured code goes. -/

namespace Sys2Proof.Machine

/-! ### Codes -/

theorem le_higherCode {a b c : Byte} : higherCode a b ≤ c ↔ a ≤ c ∧ b ≤ c := by
  unfold higherCode
  split <;> simp only [BitVec.le_def, BitVec.lt_def] at * <;> omega

theorem lowerCode_le_left (a b : Byte) : lowerCode a b ≤ a := by
  unfold lowerCode
  split <;> simp only [BitVec.le_def, BitVec.lt_def] at * <;> omega

theorem lowerCode_le_right (a b : Byte) : lowerCode a b ≤ b := by
  unfold lowerCode
  split <;> simp only [BitVec.le_def, BitVec.lt_def] at * <;> omega

theorem le_lowerCode {a b c : Byte} : c ≤ lowerCode a b ↔ c ≤ a ∧ c ≤ b := by
  unfold lowerCode
  split <;> simp only [BitVec.le_def, BitVec.lt_def] at * <;> omega

/-- The highest of a list of codes bounds each of them. -/
theorem highestCode_le {codes : List Byte} {c : Byte} : highestCode codes ≤ c ↔ ∀ x ∈ codes, x ≤ c := by
  have key : ∀ (xs : List Byte) (a : Byte), xs.foldl higherCode a ≤ c ↔ a ≤ c ∧ ∀ x ∈ xs, x ≤ c := by
    intro xs
    induction xs with
    | nil => simp
    | cons y ys ih =>
      intro a
      simp [ih, le_higherCode, and_assoc]
  have h0 : (0 : Byte) ≤ c := by simp [BitVec.le_def]
  rw [highestCode, key]
  exact and_iff_right h0

/-- The assured code is not above the confirmed code (R65). -/
theorem Rail.assured_le (r : Rail) : r.assured ≤ r.confirmed := by
  unfold Rail.assured
  split
  · exact lowerCode_le_left _ _
  · exact BitVec.le_def.2 le_rfl

/-! ### The required code (R85) -/

theorem State.mem_mapped {s : State} {v : RailId} {d : DomainId} : d ∈ s.mapped v ↔ s.railOf d = v := by
  simp [State.mapped, allDomains]

theorem State.allParked_iff {s : State} {v : RailId} :
    s.allParked v = true ↔ ∀ d, s.railOf d = v → (s.domain d).state = .parked := by
  simp [State.allParked, State.mem_mapped]

theorem State.mem_needs {s : State} {v : RailId} {code : Byte} :
    code ∈ s.needs v ↔ ∃ d, s.railOf d = v ∧ (s.domain d).need = some code := by
  simp [State.needs, State.mem_mapped]

/-- What two states must agree in to require the same code of a rail. -/
theorem State.requiredCode_congr {s t : State} {v : RailId} (hs : t.setups = s.setups)
    (hd : ∀ d, s.railOf d = v → (t.domain d).need = (s.domain d).need ∧
      ((t.domain d).state = .parked ↔ (s.domain d).state = .parked))
    (hr : (t.rail v).min = (s.rail v).min ∧ (t.rail v).max = (s.rail v).max ∧
      (t.rail v).retention = (s.rail v).retention) : t.requiredCode v = s.requiredCode v := by
  have hm : t.mapped v = s.mapped v := by simp [State.mapped, State.railOf_congr hs]
  have hp : t.allParked v = s.allParked v := by
    rw [Bool.eq_iff_iff, State.allParked_iff, State.allParked_iff]
    refine forall_congr' fun d => ?_
    rw [State.railOf_congr hs]
    exact imp_congr_right fun h => (hd d h).2
  have hn : t.needs v = s.needs v := by
    unfold State.needs
    rw [hm]
    exact List.filterMap_congr fun d h => (hd d (State.mem_mapped.1 h)).1
  simp only [State.requiredCode, hp, hn, hr]

/-! ### Re-evaluation (R86 to R88) -/

/-- The rail after a re-evaluation: in fault handling the required code only, and outside it the command of the command
rule and the state of Table 5-3 as well. -/
def State.reevaluated (s : State) (v : RailId) : Rail :=
  let r := { s.rail v with required := s.requiredCode v }
  if r.faulted then r else { r.commandRule with state := r.commandRule.ordinaryState (s.allParked v) }

/-- A re-evaluation changes its rail and the rail the link controller has chosen, and nothing else. -/
theorem State.reevaluate_eq (s : State) (v : RailId) :
    s.reevaluate v = { s.setRail v (s.reevaluated v) with
      link := { s.link with elected := (s.reevaluate v).link.elected } } := by
  dsimp only [State.reevaluate, State.reevaluated]
  split
  · rfl
  · rw [State.chooseRail_eq]
    rfl

theorem State.reevaluate_rail (s : State) (v w : RailId) :
    (s.reevaluate v).rail w = if w = v then s.reevaluated v else s.rail w := by
  rw [s.reevaluate_eq v]
  exact s.setRail_rail v w _

@[simp] theorem State.reevaluate_domain (s : State) (v : RailId) (d : DomainId) :
    (s.reevaluate v).domain d = s.domain d := by rw [s.reevaluate_eq v]; rfl
@[simp] theorem State.reevaluate_record (s : State) (v : RailId) (h : Handle) :
    (s.reevaluate v).record h = s.record h := by rw [s.reevaluate_eq v]; rfl
@[simp] theorem State.reevaluate_box (s : State) (v : RailId) (p : PortId) :
    (s.reevaluate v).box p = s.box p := by rw [s.reevaluate_eq v]; rfl
@[simp] theorem State.reevaluate_park (s : State) (v : RailId) : (s.reevaluate v).park = s.park := by
  rw [s.reevaluate_eq v]; rfl
@[simp] theorem State.reevaluate_setups (s : State) (v : RailId) : (s.reevaluate v).setups = s.setups := by
  rw [s.reevaluate_eq v]; rfl
@[simp] theorem State.reevaluate_raised (s : State) (v : RailId) : (s.reevaluate v).raised = s.raised := by
  rw [s.reevaluate_eq v]; rfl

/-- The command rule leaves an outstanding command, and any other command becomes what the required code asks (R88). -/
theorem Rail.commandRule_cases (r : Rail) :
    (∃ code tries phase, r.command = .outstanding code tries phase ∧ r.commandRule = r) ∨
    ((∀ code tries phase, r.command ≠ .outstanding code tries phase) ∧ r.required = r.confirmed ∧
      r.commandRule = { r with command := .none }) ∨
    ((∀ code tries phase, r.command ≠ .outstanding code tries phase) ∧ r.required ≠ r.confirmed ∧
      r.commandRule = { r with command := .queued r.required }) := by
  unfold Rail.commandRule
  cases hc : r.command with
  | outstanding code tries phase => exact Or.inl ⟨code, tries, phase, rfl, rfl⟩
  | queued code =>
    by_cases h : r.required = r.confirmed
    · exact Or.inr (Or.inl ⟨by simp, h, by simp [h]⟩)
    · exact Or.inr (Or.inr ⟨by simp, h, by simp [h]⟩)
  | none =>
    by_cases h : r.required = r.confirmed
    · refine Or.inr (Or.inl ⟨by simp, h, ?_⟩)
      simp only [h, if_true]
      cases r
      simp_all
    · exact Or.inr (Or.inr ⟨by simp, h, by simp [h]⟩)

/-- A re-evaluation does not touch the settings, the confirmed code or the fault cause. -/
theorem State.reevaluated_eq (s : State) (v : RailId) : ∃ command state,
    s.reevaluated v = { s.rail v with required := s.requiredCode v, command := command, state := state } := by
  dsimp only [State.reevaluated]
  split
  · exact ⟨_, _, rfl⟩
  · rcases Rail.commandRule_cases { s.rail v with required := s.requiredCode v } with
      ⟨_, _, _, -, e⟩ | ⟨-, -, e⟩ | ⟨-, -, e⟩ <;> rw [e] <;> exact ⟨_, _, rfl⟩

/-! ### The choice of the next rail (R90) -/

/-- The next waiting rail is the first one in the rotation, and there is none only where no rail waits. -/
theorem State.nextWaiting_eq_none {s : State} : s.nextWaiting = none ↔ ∀ v, s.waiting v = false := by
  simp only [State.nextWaiting, List.find?_eq_none, List.mem_cons, List.not_mem_nil, or_false]
  constructor
  · intro h v
    have : v = s.link.lastServed + 1 ∨ v = s.link.lastServed + 2 ∨ v = s.link.lastServed + 3 ∨
        v = s.link.lastServed := by
      generalize s.link.lastServed = l
      revert v l
      decide
    simpa using h v this
  · intro h v _
    simp [h v]

theorem State.waiting_of_nextWaiting {s : State} {v : RailId} (h : s.nextWaiting = some v) : s.waiting v = true :=
  List.find?_some h

/-- The next waiting rail comes before any other waiting rail in the order that begins after the last rail served. -/
theorem State.nextWaiting_first {s : State} {v w : RailId} (h : s.nextWaiting = some v) (hw : s.waiting w = true) :
    v - s.link.lastServed - 1 ≤ w - s.link.lastServed - 1 := by
  obtain ⟨-, a, b, hab, ha⟩ := List.find?_eq_some_iff_append.1 h
  have hn : w ∉ a := fun hm => by
    have := ha w hm
    simp [hw] at this
  generalize s.link.lastServed = l at hab ⊢
  clear ha h hw
  have key : ∀ l w : RailId, 0 ≤ w - l - 1 ∧ (w ≠ l + 1 → l + 2 - l - 1 ≤ w - l - 1) ∧
      (w ≠ l + 1 → w ≠ l + 2 → l + 3 - l - 1 ≤ w - l - 1) ∧
      (w ≠ l + 1 → w ≠ l + 2 → w ≠ l + 3 → l - l - 1 ≤ w - l - 1) ∧ l + 1 - l - 1 = 0 := by decide
  obtain ⟨k0, k1, k2, k3, k4⟩ := key l w
  match a, hab with
  | [], hab => injection hab with h1 _; rw [← h1, k4]; exact k0
  | [a0], hab =>
    injection hab with h1 hab; injection hab with h2 _
    subst h1; rw [← h2]
    simp only [List.mem_cons, List.not_mem_nil, or_false] at hn
    exact k1 hn
  | [a0, a1], hab =>
    injection hab with h1 hab; injection hab with h2 hab; injection hab with h3 _
    subst h1; subst h2; rw [← h3]
    simp only [List.mem_cons, List.not_mem_nil, or_false, not_or] at hn
    exact k2 hn.1 hn.2
  | [a0, a1, a2], hab =>
    injection hab with h1 hab; injection hab with h2 hab; injection hab with h3 hab; injection hab with h4 _
    subst h1; subst h2; subst h3; rw [← h4]
    simp only [List.mem_cons, List.not_mem_nil, or_false, not_or] at hn
    exact k3 hn.1 hn.2.1 hn.2.2
  | a0 :: a1 :: a2 :: a3 :: rest, hab =>
    exfalso
    have := congrArg List.length hab
    simp at this

@[simp] theorem State.chooseRail_domain (s : State) (d : DomainId) : s.chooseRail.domain d = s.domain d := by
  rw [s.chooseRail_eq]; rfl
@[simp] theorem State.chooseRail_rail (s : State) (v : RailId) : s.chooseRail.rail v = s.rail v := by
  rw [s.chooseRail_eq]; rfl
@[simp] theorem State.chooseRail_waiting (s : State) (v : RailId) : s.chooseRail.waiting v = s.waiting v := by
  rw [s.chooseRail_eq]; rfl
@[simp] theorem State.chooseRail_linkBusy (s : State) : s.chooseRail.linkBusy = s.linkBusy := by
  rw [s.chooseRail_eq]; rfl
@[simp] theorem State.chooseRail_assured (s : State) (v : RailId) : s.chooseRail.assured v = s.assured v := by
  rw [s.chooseRail_eq]; rfl

/-- After the choice, a rail is chosen exactly while the link is free with a rail waiting, and it waits. -/
theorem State.chooseRail_elected (s : State) :
    (∀ v ∈ s.chooseRail.link.elected, s.waiting v = true ∧ s.linkBusy = false) ∧
    (s.linkBusy = false → s.chooseRail.link.elected = none → ∀ v, s.waiting v = false) := by
  unfold State.chooseRail
  cases hb : s.linkBusy with
  | true => simp
  | false =>
    simp only [Bool.false_eq_true, if_false, and_true, forall_const]
    cases he : s.link.elected with
    | none =>
      exact ⟨fun v hv => State.waiting_of_nextWaiting hv, fun hv => State.nextWaiting_eq_none.1 hv⟩
    | some w =>
      by_cases hw : s.waiting w = true
      · simp only [hw, if_true, he]
        refine ⟨fun v hv => ?_, fun h => by cases h⟩
        simp only [Option.mem_def, Option.some.injEq] at hv
        exact hv ▸ hw
      · simp only [hw, if_false, Bool.false_eq_true]
        exact ⟨fun v hv => State.waiting_of_nextWaiting hv, fun hv => State.nextWaiting_eq_none.1 hv⟩

/-! ### News of an assured code (R83) -/

/-- A change of a rail's assured code puts news on its way to each domain of the rail, and changes nothing else. -/
theorem State.noteAssured_eq (v : RailId) (s t : State) :
    State.noteAssured v s t = { t with domains := (State.noteAssured v s t).domains } := by
  unfold State.noteAssured
  split
  · rfl
  · rename_i h
    clear h
    generalize t.mapped v = ds
    induction ds generalizing t with
    | nil => rfl
    | cons d ds ih =>
      simp only [List.foldl_cons]
      rw [ih]
      rfl

theorem State.noteAssured_domain (v : RailId) (s t : State) (d : DomainId) :
    (State.noteAssured v s t).domain d =
      { t.domain d with assuredNews := (t.domain d).assuredNews || (t.railOf d = v && s.assured v != t.assured v) } := by
  unfold State.noteAssured
  split
  · rename_i h
    simp [h]
  · rename_i h
    have key : ∀ (ds : List DomainId) (u : State),
        (ds.foldl (fun s d => s.setDomain d { s.domain d with assuredNews := true }) u).domain d =
          { u.domain d with assuredNews := (u.domain d).assuredNews || decide (d ∈ ds) } := by
      intro ds
      induction ds with
      | nil => intro u; simp
      | cons e ds ih =>
        intro u
        simp only [List.foldl_cons, ih, State.setDomain_domain]
        by_cases k : d = e <;> simp [k]
    have hb : (s.assured v != t.assured v) = true := by simpa using h
    rw [key, hb]
    simp [State.mem_mapped]

end Sys2Proof.Machine
end

