-- ==== Sys2Proof/Laws/Resolution.lean ====
section
/-! SUPPORT. Resolution: what each of its steps yields, that it reads nothing but its inputs, and what an evaluation
makes of a record. -/

namespace Sys2Proof.Machine

/-! ### The steps (Table 2-2) -/

theorem le_highest {ls : List Level} {start l : Level} : highest start ls ≤ l ↔ start ≤ l ∧ ∀ x ∈ ls, x ≤ l := by
  induction ls generalizing start with
  | nil => simp [highest]
  | cons y ys ih =>
    have : highest start (y :: ys) = highest (max start y) ys := rfl
    rw [this, ih]
    simp [and_assoc]

theorem highest_mem (start : Level) (ls : List Level) : highest start ls = start ∨ highest start ls ∈ ls := by
  induction ls generalizing start with
  | nil => exact Or.inl rfl
  | cons y ys ih =>
    have e : highest start (y :: ys) = highest (max start y) ys := rfl
    rw [e]
    rcases ih (max start y) with h | h
    · rcases max_choice start y with k | k <;> rw [h, k] <;> simp
    · exact Or.inr (List.mem_cons_of_mem y h)

theorem lowest_le {ls : List Level} {start l : Level} : l ≤ lowest start ls ↔ l ≤ start ∧ ∀ x ∈ ls, l ≤ x := by
  induction ls generalizing start with
  | nil => simp [lowest]
  | cons y ys ih =>
    have : lowest start (y :: ys) = lowest (min start y) ys := rfl
    rw [this, ih]
    simp [and_assoc]

theorem lowest_mem (start : Level) (ls : List Level) : lowest start ls = start ∨ lowest start ls ∈ ls := by
  induction ls generalizing start with
  | nil => exact Or.inl rfl
  | cons y ys ih =>
    have e : lowest start (y :: ys) = lowest (min start y) ys := rfl
    rw [e]
    rcases ih (min start y) with h | h
    · rcases min_choice start y with k | k <;> rw [h, k] <;> simp
    · exact Or.inr (List.mem_cons_of_mem y h)

/-- Step 4 by its three cases: the result itself, the lowest valid level above it within the ceiling, or the highest
valid level below it (R32). Where L0 is valid there is always such a level. -/
theorem validStep_cases (valid : Level → Bool) (ceiling result : Level) (h0 : valid 0 = true) :
    let l := validStep valid ceiling result
    valid l = true ∧
    ((valid result = true ∧ l = result) ∨
      (valid result = false ∧ result < l ∧ l ≤ ceiling ∧ ∀ k, result < k → valid k = true → l ≤ k) ∨
      (valid result = false ∧ (¬∃ k, result < k ∧ k ≤ ceiling ∧ valid k = true) ∧ l < result ∧
        ∀ k, k < result → valid k = true → k ≤ l)) := by
  have hs : allLevels.Pairwise (· < ·) := List.pairwise_lt_finRange 16
  have hm : ∀ k, k ∈ allLevels := List.mem_finRange
  by_cases hr : valid result = true
  · simp [validStep, hr]
  have hr' : valid result = false := by simpa using hr
  simp only [validStep, hr', Bool.false_eq_true, if_false, false_and, false_or, true_and]
  cases hf : allLevels.find? fun l => result < l && l ≤ ceiling && valid l with
  | some l =>
    have hl := List.find?_some hf
    simp only [Bool.and_eq_true, decide_eq_true_eq] at hl
    refine ⟨hl.2, Or.inl ⟨hl.1.1, hl.1.2, fun k h1 h2 => ?_⟩⟩
    by_contra hlt
    rw [not_le] at hlt
    obtain ⟨-, a, b, hab, ha⟩ := List.find?_eq_some_iff_append.1 hf
    have hk := hm k
    rw [hab] at hk hs
    rw [List.pairwise_append] at hs
    rcases List.mem_append.1 hk with hk | hk
    · have := ha k hk
      simp [h1, h2, hlt.le.trans hl.1.2] at this
    · rcases List.mem_cons.1 hk with rfl | hk
      · exact lt_irrefl _ hlt
      · exact lt_irrefl _ (hlt.trans (List.rel_of_pairwise_cons hs.2.1 hk))
  | none =>
    rw [List.find?_eq_none] at hf
    have hne : (allLevels.filter fun l => l < result && valid l) ≠ [] := by
      refine List.ne_nil_of_mem (List.mem_filter.2 ⟨hm 0, ?_⟩)
      have : (0 : Level) < result := by
        rw [Fin.pos_iff_ne_zero]
        rintro rfl
        exact hr h0
      simp [this, h0]
    have hlast := List.getLast_mem hne
    have hsort := hs.sublist (List.filter_sublist (p := fun l => decide (l < result) && valid l))
    rw [List.getLast?_eq_getLast_of_ne_nil hne]
    simp only [Option.getD_some]
    have hl := (List.mem_filter.1 hlast).2
    simp only [Bool.and_eq_true, decide_eq_true_eq] at hl
    refine ⟨hl.2, Or.inr ⟨?_, hl.1, fun k h1 h2 => ?_⟩⟩
    · rintro ⟨k, h1, h2, h3⟩
      have := hf k (hm k)
      simp [h1, h2, h3] at this
    · have hk : k ∈ allLevels.filter fun l => l < result && valid l := List.mem_filter.2 ⟨hm k, by simp [h1, h2]⟩
      rw [← List.dropLast_append_getLast hne] at hk hsort
      rcases List.mem_append.1 hk with hk | hk
      · exact ((List.pairwise_append.1 hsort).2.2 k hk _ (by simp)).le
      · exact (List.mem_singleton.1 hk).le

/-- Where L0 is valid, the target that resolution gives is a valid level (R32, R45). -/
theorem State.resolution_valid (s : State) (d : DomainId) (h0 : (s.point d 0).valid = true) :
    (s.point d (s.resolution d).1).valid = true :=
  (validStep_cases (fun l => (s.point d l).valid) _ _ h0).1

theorem limitStep_range {low high : Level} (h : low ≤ high) (b : Level × Governing) :
    low ≤ (limitStep low high b).1 ∧ (limitStep low high b).1 ≤ high := by
  unfold limitStep
  split
  · exact ⟨le_rfl, h⟩
  · split
    · exact ⟨h, le_rfl⟩
    · rename_i h1 h2
      exact ⟨not_lt.1 h1, not_lt.1 h2⟩

theorem throttleStep_le {level : Level} (b : Level × Governing) : (throttleStep true level b).1 ≤ level := by
  unfold throttleStep
  split
  · exact le_rfl
  · rename_i h
    simpa using h

/-! ### The inputs of resolution -/

theorem State.mem_levelsOn {s : State} {d : DomainId} {cls : DemandClass} {l : Level} :
    l ∈ s.levelsOn d cls ↔ ∃ h, ∃ r ∈ s.record h, r.domain = d ∧ r.cls = cls ∧ r.level = l := by
  simp only [State.levelsOn, List.mem_map, List.mem_filter, Bool.and_eq_true, decide_eq_true_eq]
  constructor
  · rintro ⟨x, ⟨hx, hd, hc⟩, rfl⟩
    exact ⟨x.1, x.2, State.mem_live.1 hx, hd, hc, rfl⟩
  · rintro ⟨h, r, hr, hd, hc, rfl⟩
    exact ⟨(h, r), ⟨State.mem_live.2 hr, hd, hc⟩, rfl⟩

/-- Two tables whose records agree in some respect have live lists that agree in it. -/
theorem State.live_map_congr {α : Type} {s t : State} (f : Record → α)
    (h : ∀ k, (t.record k).map f = (s.record k).map f) :
    (t.live.map fun x => (x.1, f x.2)) = s.live.map fun x => (x.1, f x.2) := by
  simp only [State.live, List.map_filterMap]
  refine List.filterMap_congr fun k _ => ?_
  have := congrArg (Option.map fun a => (k, a)) (h k)
  simpa [Option.map_map, Function.comp_def] using this

theorem State.DomainFrame.record_map {α : Type} {s t : State} {d : DomainId} (h : s.DomainFrame d t) (f : Record → α)
    (hf : ∀ (r : Record) a b c, f { r with status := a, acknowledged := b, lastSettled := c } = f r) (k : Handle) :
    (t.record k).map f = (s.record k).map f := by
  cases hr : s.record k with
  | none => rw [h.freed k hr]
  | some r =>
    obtain ⟨a, b, c, e⟩ := h.filed k r hr
    simp [e, hf]

theorem State.levelsOn_congr {s t : State} (d : DomainId) (cls : DemandClass)
    (h : ∀ k, (t.record k).map (fun r => (r.domain, r.cls, r.level)) =
      (s.record k).map fun r => (r.domain, r.cls, r.level)) : t.levelsOn d cls = s.levelsOn d cls := by
  have key : ∀ u : State, u.levelsOn d cls =
      ((u.live.map fun x => (x.1, x.2.domain, x.2.cls, x.2.level)).filter fun x => x.2.1 = d && x.2.2.1 = cls).map
        fun x => x.2.2.2 := by
    intro u
    simp [State.levelsOn, List.filter_map, Function.comp_def]
  rw [key, key, State.live_map_congr _ h]

theorem State.hasFloor_congr {s t : State} (d : DomainId)
    (h : ∀ k, (t.record k).map (fun r => (r.domain, r.cls)) = (s.record k).map fun r => (r.domain, r.cls)) :
    t.hasFloor d = s.hasFloor d := by
  have key : ∀ u : State, u.hasFloor d =
      (u.live.map fun x => (x.1, x.2.domain, x.2.cls)).any fun x => x.2.1 = d && x.2.2 = .floor := by
    intro u
    simp [State.hasFloor, List.any_map, Function.comp_def]
  rw [key, key, State.live_map_congr _ h]

theorem State.DomainFrame.hasFloor {s t : State} {d : DomainId} (h : s.DomainFrame d t) (e : DomainId) :
    t.hasFloor e = s.hasFloor e :=
  State.hasFloor_congr e (h.record_map _ fun _ _ _ _ => rfl)

theorem State.DomainFrame.levelsOn {s t : State} {d : DomainId} (h : s.DomainFrame d t) (e : DomainId)
    (cls : DemandClass) : t.levelsOn e cls = s.levelsOn e cls :=
  State.levelsOn_congr e cls (h.record_map _ fun _ _ _ _ => rfl)

theorem State.DomainFrame.force {s t : State} {d : DomainId} (h : s.DomainFrame d t) (e : DomainId) :
    (t.domain e).force = (s.domain e).force := by
  by_cases k : e = d
  · rw [k, h.inputs.1]
  · rw [h.domains e k]

theorem State.DomainFrame.throttled {s t : State} {d : DomainId} (h : s.DomainFrame d t) (e : DomainId) :
    (t.domain e).throttled = (s.domain e).throttled := by
  by_cases k : e = d
  · rw [k, h.inputs.2]
  · rw [h.domains e k]

theorem State.DomainFrame.wanted {s t : State} {d : DomainId} (h : s.DomainFrame d t) (e : DomainId) :
    t.wanted e = s.wanted e := by
  simp only [State.wanted, h.hasFloor e, h.force e]

/-- Resolution of any domain reads nothing that an operation of a domain controller changes. -/
theorem State.DomainFrame.resolution {s t : State} {d : DomainId} (h : s.DomainFrame d t) (e : DomainId) :
    t.resolution e = s.resolution e := by
  have hp : (fun l => (t.point e l).valid) = fun l => (s.point e l).valid := by
    funext l
    rw [h.point]
  simp only [State.resolution, State.base, State.effectiveCeiling, State.throttleAsserted, hp, h.config, h.force,
    h.throttled, h.levelsOn]
  rfl

/-! ### Evaluation -/

/-- The evaluation of a settled domain leaves each record on it as R37 and R42 give it. -/
theorem State.evaluateSettled_record (s : State) (d : DomainId) (h : Handle) :
    (s.evaluateSettled d).record h =
      (s.record h).map fun r => if r.domain = d then r.evaluatedAt (s.domain d).current else r := by
  unfold State.evaluateSettled
  rw [State.evaluate_records]
  refine congrArg (Option.map · (s.record h)) (funext fun r => ?_)
  by_cases hd : r.domain = d
  · simp only [hd, if_true, Option.map_some, Option.getD_some, settledVerdict, Record.evaluatedAt, Record.judge]
    cases hc : r.cls <;> simp only [ge_iff_le, reduceCtorEq, false_and, true_and, or_false, false_or] <;>
      split <;> simp_all [Verdict.status]
  · simp [hd]

/-- The evaluation of a PARKED domain leaves each record on it as R38 gives it. -/
theorem State.evaluateParked_record (s : State) (d : DomainId) (h : Handle) :
    (s.evaluateParked d).record h =
      (s.record h).map fun r => if r.domain = d then r.evaluatedParked else r := by
  unfold State.evaluateParked
  rw [State.evaluate_records]
  refine congrArg (Option.map · (s.record h)) (funext fun r => ?_)
  by_cases hd : r.domain = d
  · simp only [hd, if_true, parkedVerdict, Record.evaluatedParked]
    cases hc : r.cls <;> simp [Record.judge, Verdict.status, hd, hc]
  · simp [hd]

/-- The notices of an evaluation go to the owners of the records that it judges, in ascending order of handle. -/
theorem State.evaluate_box (s : State) (d : DomainId) (rule : Record → Option Verdict) (p : PortId) :
    (s.evaluate d rule).box p = (s.live.filterMap fun x =>
      if x.2.domain = d ∧ x.2.owner = p then
        ((rule x.2).bind (evaluationNotice (s.domain d).current x.1 x.2)).map Prod.snd
      else none).foldl Box.place (s.box p) := by
  dsimp only [State.evaluate]
  rw [State.placeAll_box, List.filter_filterMap, List.map_filterMap]
  refine congrArg (fun ns => List.foldl Box.place (s.box p) ns) (List.filterMap_congr fun x _ => ?_)
  by_cases hd : x.2.domain = d
  · simp only [hd, if_true, true_and]
    have howner : ∀ y, (rule x.2).bind (evaluationNotice (s.domain d).current x.1 x.2) = some y → y.1 = x.2.owner := by
      intro y hy
      simp only [evaluationNotice, Option.bind_eq_some_iff] at hy
      obtain ⟨v, -, hv⟩ := hy
      split at hv
      · cases hv
      · cases v <;> (simp only [Option.some.injEq] at hv; rw [← hv])
    cases hy : (rule x.2).bind (evaluationNotice (s.domain d).current x.1 x.2) with
    | none => simp
    | some y => by_cases hp : x.2.owner = p <;> simp [howner y hy, hp, Option.filter]
  · simp [hd]

/-- The evaluation of a settled domain places the notices of R41. -/
theorem State.evaluateSettled_box (s : State) (d : DomainId) (p : PortId) :
    (s.evaluateSettled d).box p = (s.settledNotices d (s.domain d).current p).foldl Box.place (s.box p) := by
  rw [State.evaluateSettled, State.evaluate_box]
  refine congrArg (fun ns => List.foldl Box.place (s.box p) ns) (List.filterMap_congr fun x _ => ?_)
  by_cases hx : x.2.domain = d ∧ x.2.owner = p
  · simp only [hx, if_true, and_self, true_and, Option.bind_some, settledVerdict, Record.evaluatedAt, evaluationNotice]
    cases hc : x.2.cls <;> simp only [ge_iff_le, reduceCtorEq, false_and, true_and, or_false, false_or] <;>
      split <;> (simp [eq_comm]; split <;> simp)
  · rw [if_neg hx, if_neg fun h => hx ⟨h.1, h.2.1⟩]

/-- The evaluation of a PARKED domain places those of R38. -/
theorem State.evaluateParked_box (s : State) (d : DomainId) (p : PortId) :
    (s.evaluateParked d).box p = (s.parkedNotices d p).foldl Box.place (s.box p) := by
  rw [State.evaluateParked, State.evaluate_box]
  refine congrArg (fun ns => List.foldl Box.place (s.box p) ns) (List.filterMap_congr fun x _ => ?_)
  by_cases hx : x.2.domain = d ∧ x.2.owner = p
  · simp only [hx, and_self, if_true, true_and, parkedVerdict, evaluationNotice]
    cases hc : x.2.cls
    · simp
    · by_cases hl : x.2.lastSettled = some .inForce <;> simp [hl, evaluationNotice]
  · rw [if_neg hx, if_neg fun h => hx ⟨h.1, h.2.1⟩]

theorem Record.unsettle_eq (r : Record) : r.unsettle = r.unsettled := by
  simp [Record.unsettle, Record.unsettled]

theorem State.unsettleRecords_record (s : State) (d : DomainId) (h : Handle) :
    (s.unsettleRecords d).record h = (s.record h).map fun r => if r.domain = d then r.unsettled else r := by
  simp [State.unsettleRecords, State.mapRecordsOn_record, Record.unsettle_eq]

theorem State.holdRecords_record (s : State) (d : DomainId) (h : Handle) :
    (s.holdRecords d).record h =
      (s.record h).map fun r => if r.domain = d then { r with status := .held } else r := by
  simp [State.holdRecords, State.mapRecordsOn_record]

end Sys2Proof.Machine
end

