-- ==== Sys2Proof/Laws/Moves.lean ====
section
/-! SUPPORT. How a domain controller moves: what each operation of one leaves of its domain and of the records on it.
What it leaves of everything else is in the frames of Laws/Frame.lean. -/

namespace Sys2Proof.Machine

variable (s : State) (d : DomainId)

/-! ### Statuses and evaluations touch records and pending sets only -/

theorem State.evaluate_eq (rule : Record → Option Verdict) :
    s.evaluate d rule = { s with records := (s.evaluate d rule).records, boxes := (s.evaluate d rule).boxes } := by
  unfold State.evaluate
  rw [State.placeAll_frame]
  rfl

@[simp] theorem State.evaluate_domain (rule : Record → Option Verdict) (e : DomainId) :
    (s.evaluate d rule).domain e = s.domain e := by rw [State.evaluate_eq]; rfl
@[simp] theorem State.evaluate_rail (rule : Record → Option Verdict) (v : RailId) :
    (s.evaluate d rule).rail v = s.rail v := by rw [State.evaluate_eq]; rfl
@[simp] theorem State.evaluate_rails (rule : Record → Option Verdict) : (s.evaluate d rule).rails = s.rails := by
  rw [State.evaluate_eq]
@[simp] theorem State.evaluate_link (rule : Record → Option Verdict) : (s.evaluate d rule).link = s.link := by
  rw [State.evaluate_eq]
@[simp] theorem State.evaluate_park (rule : Record → Option Verdict) : (s.evaluate d rule).park = s.park := by
  rw [State.evaluate_eq]
@[simp] theorem State.evaluate_setups (rule : Record → Option Verdict) : (s.evaluate d rule).setups = s.setups := by
  rw [State.evaluate_eq]
@[simp] theorem State.evaluateSettled_domain (e : DomainId) : (s.evaluateSettled d).domain e = s.domain e :=
  s.evaluate_domain d _ e
@[simp] theorem State.evaluateParked_domain (e : DomainId) : (s.evaluateParked d).domain e = s.domain e :=
  s.evaluate_domain d _ e

@[simp] theorem State.mapRecordsOn_domain (f : Record → Record) (e : DomainId) :
    (s.mapRecordsOn d f).domain e = s.domain e := rfl
@[simp] theorem State.unsettleRecords_domain (e : DomainId) : (s.unsettleRecords d).domain e = s.domain e := rfl
@[simp] theorem State.unholdRecords_domain (e : DomainId) : (s.unholdRecords d).domain e = s.domain e := rfl
@[simp] theorem State.holdRecords_domain (e : DomainId) : (s.holdRecords d).domain e = s.domain e := rfl

/-! ### Settling and planning (R36, R66) -/

theorem State.settle_domain :
    (s.settle d).domain d = { s.domain d with state := .steady, settled := true } := by
  simp [State.settle]

theorem State.settle_record (h : Handle) :
    (s.settle d).record h =
      (s.record h).map fun r => if r.domain = d then r.evaluatedAt (s.domain d).current else r := by
  simp [State.settle, State.evaluateSettled_record]

/-- The domain after a plan, by the three rows of Table 4-4. -/
theorem State.plan_domain :
    (s.plan d).domain d =
      if (s.domain d).target = (s.domain d).current then { s.domain d with state := .steady, settled := true }
      else if s.assured (s.railOf d) < s.code d (s.domain d).target then
        { s.domain d with settled := false, state := .raising }
      else { s.domain d with
        settled := false
        state := .stepping
        step := some (s.domain d).target
        strobe := some (.step (s.point d (s.domain d).target).clock)
        lockTimer := none } := by
  dsimp only [State.plan]
  split
  · exact s.settle_domain d
  · by_cases h : s.assured (s.railOf d) < s.code d (s.domain d).target
    · simp [h]
    · simp only [gt_iff_lt, h, if_false, State.startStep, State.setDomain_domain_self, State.unsettleRecords_domain]
      rfl

/-- The records after a plan: evaluated where the domain settles, and no longer settled where it moves. -/
theorem State.plan_record (h : Handle) :
    (s.plan d).record h = (s.record h).map fun r =>
      if r.domain = d then
        if (s.domain d).target = (s.domain d).current then r.evaluatedAt (s.domain d).current else r.unsettled
      else r := by
  dsimp only [State.plan]
  by_cases k : (s.domain d).target = (s.domain d).current
  · simp [k, State.settle_record]
  · by_cases h : s.assured (s.railOf d) < s.code d (s.domain d).target <;>
      simp [h, k, State.startStep, State.unsettleRecords_record]

/-- A plan places the notices of its evaluation where the domain settles, and none where it moves. -/
theorem State.plan_box (p : PortId) :
    (s.plan d).box p =
      (s.planNotices d (s.domain d).current (s.domain d).target p).foldl Box.place (s.box p) := by
  dsimp only [State.plan, State.planNotices]
  split
  · rw [State.settle, State.evaluateSettled_box, State.setDomain_domain_self]; rfl
  · split <;> rfl

theorem State.plan_rest :
    (s.plan d).rails = s.rails ∧ (s.plan d).link = s.link ∧ (s.plan d).park = s.park := by
  dsimp only [State.plan]
  split
  · simp [State.settle, State.evaluateSettled]
  · split <;> exact ⟨rfl, rfl, rfl⟩

@[simp] theorem State.plan_park : (s.plan d).park = s.park := (s.plan_rest d).2.2
@[simp] theorem State.plan_rail (v : RailId) : (s.plan d).rail v = s.rail v := by
  simp only [State.rail, (s.plan_rest d).1]

/-! ### The consent channel (R106 to R114) -/

/-- The channel serves the head of the queue where it is free, and changes nothing else. -/
theorem State.serveConsent_park :
    s.serveConsent.park =
      if s.channelFree = true then
        match s.park.queue with
        | [] => s.park
        | e :: rest => { s.park with
            queue := rest, request := some (e, s.park.timeout.toNat * 100), cdom := BitVec.ofNat 4 e }
      else s.park := by
  unfold State.serveConsent
  split
  · cases s.park.queue <;> rfl
  · rfl

@[simp] theorem State.serveConsent_domain (e : DomainId) : s.serveConsent.domain e = s.domain e := by
  rw [State.serveConsent_frame]; rfl
@[simp] theorem State.serveConsent_record (h : Handle) : s.serveConsent.record h = s.record h := by
  rw [State.serveConsent_frame]; rfl
@[simp] theorem State.serveConsent_rail (v : RailId) : s.serveConsent.rail v = s.rail v := by
  rw [State.serveConsent_frame]; rfl
@[simp] theorem State.serveConsent_box (p : PortId) : s.serveConsent.box p = s.box p := by
  rw [State.serveConsent_frame]; rfl

/-- A domain that leaves the channel is in neither the queue nor the request, and no other domain leaves with it. -/
theorem State.leaveConsent_park (e : DomainId) :
    (e ∈ (s.leaveConsent d).park.queue ↔ e ∈ s.park.queue ∧ e ≠ d) ∧
    ((s.leaveConsent d).park.request = if s.park.request.map Prod.fst = some d then none else s.park.request) := by
  refine ⟨by simp [State.leaveConsent], ?_⟩
  dsimp only [State.leaveConsent]
  cases h : s.park.request with
  | none => rfl
  | some x => by_cases h : x.1 = d <;> simp [h]

/-! ### Waking and parking (R110, R116 to R120) -/

theorem State.granted_domain :
    (s.granted d).domain d = { s.domain d with
      state := .parking
      strobe := some .stop
      gated := true
      gateTimer := some ((s.config d).gateCount.toNat * 10) } := by
  simp [State.granted, Config.clockUnit]

/-- A domain in the RAIL stage opens its GATE where its rail covers the target, and else waits (R118, R119). -/
theorem State.checkRailStage_domain :
    (s.checkRailStage d).domain d =
      if s.code d (s.domain d).target ≤ s.assured (s.railOf d) then
        { s.domain d with
          state := .waking .gate
          gated := false
          gateTimer := some ((s.config d).gateCount.toNat * 10) }
      else s.domain d := by
  unfold State.checkRailStage
  split <;> simp [State.enterGate, Config.clockUnit]

theorem State.beginWake_domain :
    (s.beginWake d).domain d =
      if s.code d (s.domain d).target ≤ s.assured (s.railOf d) then
        { s.domain d with
          state := .waking .gate
          gated := false
          gateTimer := some ((s.config d).gateCount.toNat * 10) }
      else { s.domain d with state := .waking .rail, gated := true } := by
  simp only [State.beginWake]
  rw [State.checkRailStage_domain]
  simp only [State.setDomain_domain_self, State.unsettleRecords_domain]
  rfl

theorem State.beginWake_record (h : Handle) :
    (s.beginWake d).record h = (s.record h).map fun r => if r.domain = d then r.unsettled else r := by
  have : ∀ t : State, (t.checkRailStage d).record h = t.record h := by
    intro t
    unfold State.checkRailStage
    split <;> rfl
  simp [State.beginWake, this, State.unsettleRecords_record]

theorem State.enterParked_domain :
    (s.enterParked d).domain d = { s.domain d with state := .parked, gated := true } := by
  simp [State.enterParked]

theorem State.enterParked_record (h : Handle) :
    (s.enterParked d).record h = (s.record h).map fun r => if r.domain = d then r.evaluatedParked else r := by
  simp [State.enterParked, State.evaluateParked_record]

/-! ### Acting on a resolution (R34, R68, R72, R77, Table 4-5, R118) -/

variable {s d}

theorem State.act_steady {old : Level} (h : (s.domain d).state = .steady) : s.act d old = s.plan d := by
  simp [State.act, h]

theorem State.act_raising {old : Level} (h : (s.domain d).state = .raising) :
    s.act d old = if (s.domain d).target = old then s else s.plan d := by
  simp [State.act, h]

theorem State.act_consent {old : Level} (h : (s.domain d).state = .consent) :
    s.act d old = if s.wanted d = true then s.withdraw d else s := by
  simp [State.act, h]

theorem State.act_parked {old : Level} (h : (s.domain d).state = .parked) :
    s.act d old = if s.wanted d = true then s.beginWake d else s.evaluateParked d := by
  simp [State.act, h]

theorem State.act_rail {old : Level} (h : (s.domain d).state = .waking .rail) :
    s.act d old = s.checkRailStage d := by
  simp [State.act, h]

/-- In every other state a resolution moves nothing. -/
theorem State.act_other {old : Level} (h : (s.domain d).state = .stepping ∨ (s.domain d).state = .parking ∨
    (s.domain d).state = .waking .gate ∨ (s.domain d).state = .waking .clock ∨ (s.domain d).state = .frozen ∨
    (s.domain d).state = .off) : s.act d old = s := by
  rcases h with h | h | h | h | h | h <;> simp [State.act, h]

variable (s d)

/-- A withdrawal is a leave of the channel, its serving, and a plan from STEADY (R114). -/
theorem State.withdraw_eq :
    s.withdraw d = (((s.leaveConsent d).serveConsent).setDomain d { s.domain d with state := .steady }).plan d := by
  simp only [State.withdraw, State.serveConsent_domain]
  rfl

/-! ### The end of an event of a domain controller (R65) -/

/-- The remaining time of the quiet timer as the end of the event leaves it (R78). -/
def State.quietAfter (s : State) (d : DomainId) : Option Nat :=
  if s.quiet d = true then some ((s.domain d).quietTimer.getD ((s.config d).window.toNat * 1000)) else none

theorem State.updateQuiet_eq :
    s.updateQuiet d = s.setDomain d { s.domain d with quietTimer := s.quietAfter d } := by
  simp only [State.updateQuiet, State.quietAfter, Config.quietUnit]
  split
  · cases (s.domain d).quietTimer <;> rfl
  · rfl

/-- The need reads the state, the levels and the step of its domain, and GATE where it is FROZEN (R64). -/
theorem State.needOf_setDomain (c : Domain) (hc : c.state = (s.domain d).state) (h1 : c.current = (s.domain d).current)
    (h2 : c.target = (s.domain d).target) (h3 : c.step = (s.domain d).step) (h4 : c.gated = (s.domain d).gated) :
    (s.setDomain d c).needOf d = s.needOf d := by
  simp only [State.needOf, State.setDomain_domain_self, State.setDomain_code, hc, h1, h2, h3, h4]

/-- At the end of an event the quiet timer follows its conditions and the need follows the state; nothing else moves. -/
theorem State.closeDomain_eq :
    s.closeDomain d = s.setDomain d { s.domain d with quietTimer := s.quietAfter d, need := s.needOf d } := by
  simp only [State.closeDomain, State.updateQuiet_eq, State.refreshNeed, State.setDomain_domain_self]
  have h := State.needOf_setDomain s d { s.domain d with quietTimer := s.quietAfter d } rfl rfl rfl rfl rfl
  simp only at h
  rw [h]
  simp [State.setDomain]

theorem State.finish_domain :
    (s.finish d).domain d = { s.domain d with quietTimer := s.quietAfter d, need := s.needOf d } := by
  simp [State.finish, State.closeDomain_eq]

/-- The end of an event leaves the quiet timer as its four conditions have it (R78). -/
theorem State.finish_quietTimer : s.QuietTimerFollows (s.finish d) d := by
  have hq : (s.finish d).hasFloor d = s.hasFloor d := (State.DomainFrame.finish s d).hasFloor d
  have hc : (s.finish d).config d = s.config d := (State.DomainFrame.finish s d).config d
  simp only [State.QuietTimerFollows, hq, hc, State.finish_domain, State.quietAfter, State.quiet]
  refine if_congr ?_ rfl rfl
  simp [and_assoc]

@[simp] theorem State.finish_record (h : Handle) : (s.finish d).record h = s.record h := by
  simp [State.finish, State.closeDomain_eq]
@[simp] theorem State.finish_park : (s.finish d).park = s.park := by
  simp [State.finish, State.closeDomain_eq]
@[simp] theorem State.finish_box (p : PortId) : (s.finish d).box p = s.box p := by
  simp [State.finish, State.closeDomain_eq]

end Sys2Proof.Machine
end

