-- ==== Sys2Proof/Laws/Faulting.lean ====
section
/-! SUPPORT. Fault handling: what the freeze and the switching off of one domain leave of it, and what they leave of the
part when they are done for every domain of a rail. -/

namespace Sys2Proof.Machine

variable (s : State) (d : DomainId)

/-! ### One domain (R126, R127, R131, Table 7-2) -/

/-- The domain after the freeze by its state. -/
theorem State.freezeByState_domain :
    (s.freezeByState d).domain d =
      (let c := s.domain d
      let safe := (s.config d).safe
      let stepped : Domain := { c with
        state := .frozen, step := some safe, strobe := some (.step (s.point d safe).clock), lockTimer := none }
      let steady : Domain := if c.current = safe then { c with state := .frozen } else stepped
      let left : Domain := { c with state := .frozen, gated := true }
      match c.state with
      | .steady => steady
      | .raising => steady
      | .consent => steady
      | .stepping => stepped
      | .waking .clock => stepped
      | .waking .gate => left
      | .waking .rail => left
      | .parking => left
      | .parked => left
      | .frozen => c
      | .off => c) := by
  dsimp only
  cases h : (s.domain d).state with
  | waking stage => cases stage <;> simp [State.freezeByState, h, State.freezeGated, State.startStep]
  | steady =>
    by_cases k : (s.domain d).current = (s.config d).safe <;>
      simp [State.freezeByState, h, State.freezeSteady, k, State.startStep]
  | raising =>
    by_cases k : (s.domain d).current = (s.config d).safe <;>
      simp [State.freezeByState, h, State.freezeSteady, k, State.startStep]
  | consent =>
    by_cases k : (s.domain d).current = (s.config d).safe <;>
      simp [State.freezeByState, h, State.freezeSteady, k, State.startStep]
  | _ => simp [State.freezeByState, h, State.freezeGated, State.startStep]

theorem State.setDomain_self : s.setDomain d (s.domain d) = s := by simp [State.setDomain, State.domain]

@[simp] theorem State.setDomain_setDomain (c c' : Domain) : (s.setDomain d c).setDomain d c' = s.setDomain d c' := by
  simp [State.setDomain]

theorem State.freezeByState_eq : s.freezeByState d = s.setDomain d ((s.freezeByState d).domain d) := by
  cases h : (s.domain d).state with
  | waking stage => cases stage <;> simp [State.freezeByState, h, State.freezeGated, State.startStep]
  | steady =>
    by_cases k : (s.domain d).current = (s.config d).safe <;>
      simp [State.freezeByState, h, State.freezeSteady, k, State.startStep]
  | raising =>
    by_cases k : (s.domain d).current = (s.config d).safe <;>
      simp [State.freezeByState, h, State.freezeSteady, k, State.startStep]
  | consent =>
    by_cases k : (s.domain d).current = (s.config d).safe <;>
      simp [State.freezeByState, h, State.freezeSteady, k, State.startStep]
  | _ => simp [State.freezeByState, h, State.freezeGated, State.startStep, State.setDomain_self]

/-- A freeze changes its domain and makes the records on it HELD, and leaves all else. -/
theorem State.freeze_eq : s.freeze d = (s.setDomain d ((s.freeze d).domain d)).holdRecords d := by
  simp only [State.freeze, State.refreshNeed, State.holdRecords_domain, State.setDomain_domain_self]
  rw [State.freezeByState_eq]
  simp only [State.setDomain_domain_self, State.setDomain_setDomain]

/-- What a freeze makes of its domain, but for the need, which follows the state. -/
theorem State.freeze_domain :
    (s.freeze d).domain d = { (s.freezeByState d).domain d with
      settled := false, quietTimer := none, gateTimer := none, cause := .rail
      need := ((s.freezeByState d).setDomain d { (s.freezeByState d).domain d with
        settled := false, quietTimer := none, gateTimer := none, cause := .rail }).needOf d } := by
  simp [State.freeze, State.refreshNeed]

/-- Switching a domain off changes it as R131 gives, makes the records on it HELD, and leaves all else. -/
theorem State.switchOff_eq :
    s.switchOff d = (s.setDomain d { s.domain d with
      state := .off, settled := false, step := none, lockTimer := none, gateTimer := none, quietTimer := none
      need := none, cause := .rail, gated := true }).holdRecords d := rfl

/-! ### The domains of a rail -/

/-- Operations that change one domain each and make the records on it HELD, over a list of domains: each listed domain is
as its own operation leaves it, and no other domain and nothing else changes. -/
theorem State.foldl_hold {f : State → DomainId → State} {g : Setup → Domain → Domain}
    (hf : ∀ (u : State) (e : DomainId), f u e = (u.setDomain e (g (u.setup e) (u.domain e))).holdRecords e)
    {ds : List DomainId} (hn : ds.Nodup) (s : State) :
    ds.foldl f s = { s with
      domains := (ds.foldl f s).domains, records := (ds.foldl f s).records } ∧
    (∀ e, (ds.foldl f s).domain e = if e ∈ ds then g (s.setup e) (s.domain e) else s.domain e) ∧
    ∀ h, (ds.foldl f s).record h =
      (s.record h).map fun r => if r.domain ∈ ds then { r with status := .held } else r := by
  induction ds generalizing s with
  | nil => exact ⟨rfl, by simp, by simp⟩
  | cons d ds ih =>
    obtain ⟨hd, hn⟩ := List.nodup_cons.1 hn
    obtain ⟨h1, h2, h3⟩ := ih hn (f s d)
    simp only [List.foldl_cons]
    refine ⟨?_, fun e => ?_, fun h => ?_⟩
    · rw [h1, hf s d]
      rfl
    · rw [h2 e, hf s d]
      simp only [State.holdRecords_domain, State.setDomain_domain, List.mem_cons]
      by_cases k : e = d
      · subst k; simp [hd]
      · simp only [k, if_false, false_or]
        rfl
    · rw [h3 h, hf s d]
      simp only [State.holdRecords_record, State.setDomain_record, Option.map_map, List.mem_cons]
      refine congrArg (Option.map · (s.record h)) (funext fun r => ?_)
      by_cases k : r.domain = d <;> by_cases k' : r.domain ∈ ds <;> simp [k, k']

/-- A domain as a freeze by its rail leaves it, from its own items and its setup alone. -/
def Domain.afterFreeze (x : Setup) (c : Domain) : Domain :=
  let safe := x.config.safe
  let stepped : Domain := { c with
    state := .frozen, step := some safe, strobe := some (.step x.points[safe].clock), lockTimer := none }
  let steady : Domain := if c.current = safe then { c with state := .frozen } else stepped
  let left : Domain := { c with state := .frozen, gated := true }
  let moved : Domain := match c.state with
    | .steady => steady
    | .raising => steady
    | .consent => steady
    | .stepping => stepped
    | .waking .clock => stepped
    | .waking .gate => left
    | .waking .rail => left
    | .parking => left
    | .parked => left
    | .frozen => c
    | .off => c
  { moved with
    settled := false, quietTimer := none, gateTimer := none, cause := .rail
    need := if moved.state = .off ∨ moved.gated = true then none
      else some x.points[moved.step.getD moved.current].volt }

theorem State.freeze_local :
    s.freeze d = (s.setDomain d ((s.domain d).afterFreeze (s.setup d))).holdRecords d := by
  rw [State.freeze_eq, State.freeze_domain]
  have h : ∀ c : Domain, c.state = .frozen ∨ c.state = .off →
      (s.setDomain d c).needOf d =
        if c.state = .off ∨ c.gated = true then none else some ((s.setup d).points[c.step.getD c.current]).volt := by
    intro c hc
    rcases hc with hc | hc
    · simp only [State.needOf, State.setDomain_domain_self, hc, reduceCtorEq, false_or]
      rfl
    · simp [State.needOf, hc]
  have hm : ((s.freezeByState d).domain d).state = .frozen ∨ ((s.freezeByState d).domain d).state = .off := by
    rw [State.freezeByState_domain]
    dsimp only
    split <;> first | (split <;> simp) | simp [*]
  rw [State.freezeByState_eq, State.setDomain_domain_self, State.setDomain_setDomain]
  have h' := h { (s.freezeByState d).domain d with
    settled := false, quietTimer := none, gateTimer := none, cause := .rail } hm
  simp only at h' ⊢
  rw [h', State.freezeByState_domain]
  rfl

theorem State.mapped_nodup (v : RailId) : (s.mapped v).Nodup :=
  (List.nodup_finRange 12).filter _

/-! ### The consent channel and the link under a fault (R94, R114, R126) -/

/-- Domains that leave the channel are in neither the queue nor the request, and no other domain leaves with them. -/
theorem State.leaveAll_eq (ds : List DomainId) :
    ds.foldl State.leaveConsent s = { s with park := { s.park with
      queue := s.park.queue.filter fun e => e ∉ ds
      request := s.park.request.filter fun x => x.1 ∉ ds } } := by
  induction ds generalizing s with
  | nil =>
    simp only [List.foldl_nil, List.not_mem_nil, not_false_eq_true, decide_true, List.filter_true]
    have e : (s.park.request.filter fun _ => true) = s.park.request := by cases s.park.request <;> rfl
    rw [e]
  | cons d ds ih =>
    rw [List.foldl_cons, ih]
    simp only [State.leaveConsent, List.filter_filter, List.mem_cons, not_or, Bool.decide_and]
    congr 2
    · exact List.filter_congr fun e _ => Bool.and_comm _ _
    · cases s.park.request with
      | none => rfl
      | some x =>
        by_cases h : x.1 = d <;> by_cases k : x.1 ∈ ds <;> simp [h, k, Option.filter]

/-- What the withdrawal of several domains leaves of the park controller (R108, R114). -/
theorem State.leaveAll_serve_park (ds : List DomainId) :
    (ds.foldl State.leaveConsent s).serveConsent.park = s.parkWithout fun e => e ∈ ds := by
  rw [State.leaveAll_eq, State.serveConsent_park]
  simp only [State.parkWithout, State.channelFree, State.creq]
  cases hq : s.park.queue.filter fun e => e ∉ ds with
  | nil => simp
  | cons e rest =>
    refine if_congr ?_ rfl rfl
    cases s.park.request.filter fun x => x.1 ∉ ds <;> simp

theorem State.leaveConsent_serve_park : (s.leaveConsent d).serveConsent.park = s.parkWithout fun e => e = d := by
  have h := s.leaveAll_serve_park [d]
  simpa using h

/-- Disregarding marks the transfer of the rail, where the link carries one, and changes nothing else. -/
theorem State.disregard_eq (v : RailId) :
    s.disregard v = { s with link := { s.link with
      transfer := s.link.transfer.map fun x => if x.rail = v then { x with disregarded := true } else x } } := by
  unfold State.disregard
  cases h : s.link.transfer with
  | none => simp only [Option.map_none]; rw [← h]
  | some x =>
    by_cases k : x.rail = v
    · simp [k]
    · simp only [k, if_false, Option.map_some]
      rw [← h]

/-- The check of a rail in FALLBACK changes its command and the chosen rail, and nothing else (R129). -/
theorem State.fallbackCheck_eq (v : RailId) :
    s.fallbackCheck v =
      if (s.rail v).state = .fallback ∧ (s.rail v).command = .none ∧ ∀ d, s.railOf d = v → (s.domain d).inPlace = true
      then (s.setRail v { s.rail v with command := .queued (s.rail v).fallback }).chooseRail
      else s := by
  dsimp only [State.fallbackCheck]
  refine if_congr ?_ rfl rfl
  simp [State.mem_mapped, and_assoc]

/-- The check queues the fallback code as R129 has it. -/
theorem State.fallbackCheck_follows (v : RailId) : s.FallbackFollows (s.fallbackCheck v) v := by
  intro h
  rw [State.fallbackCheck_eq]
  split
  · rename_i k
    rw [State.chooseRail_eq]
    refine ⟨by simpa [State.rail, State.setRail] using h, fun _ => ?_⟩
    refine Eq.trans ?_ (if_pos fun e he => ?_).symm
    · simp [State.rail, State.setRail]
    · exact k.2.2 e he
  · rename_i k
    exact ⟨h, fun hn => by rw [if_neg fun ha => k ⟨h, hn, ha⟩, hn]⟩

end Sys2Proof.Machine
end

