-- ==== Sys2Proof/Laws/Ports.lean ====
section
/-! SUPPORT. What a block does is the same whatever the request ports hold: every operation but those of the ports
commutes with a change of a port, and every condition is blind to it. With that, serving a request comes down to what its
block does: `State.serve_answered`. -/

namespace Sys2Proof.Machine

variable (s : State) (p : PortId) (q : Port)

/-! ### Conditions that do not read the ports -/

theorem State.setPort_live : (s.setPort p q).live = s.live := rfl
theorem State.setPort_liveCount (o : PortId) : (s.setPort p q).liveCount o = s.liveCount o := rfl
theorem State.setPort_findKey (o : PortId) (d : DomainId) (cls : DemandClass) :
    (s.setPort p q).findKey o d cls = s.findKey o d cls := rfl
theorem State.setPort_lowestFree : (s.setPort p q).lowestFree = s.lowestFree := rfl
theorem State.setPort_startStatus (d : DomainId) : (s.setPort p q).startStatus d = s.startStatus d := rfl
theorem State.setPort_hasFloor (d : DomainId) : (s.setPort p q).hasFloor d = s.hasFloor d := rfl
theorem State.setPort_wanted (d : DomainId) : (s.setPort p q).wanted d = s.wanted d := rfl
theorem State.setPort_quiet (d : DomainId) : (s.setPort p q).quiet d = s.quiet d := rfl
theorem State.setPort_resolution (d : DomainId) : (s.setPort p q).resolution d = s.resolution d := rfl
theorem State.setPort_assured (v : RailId) : (s.setPort p q).assured v = s.assured v := rfl
theorem State.setPort_needOf (d : DomainId) : (s.setPort p q).needOf d = s.needOf d := rfl
theorem State.setPort_requiredCode (v : RailId) : (s.setPort p q).requiredCode v = s.requiredCode v := rfl
theorem State.setPort_allParked (v : RailId) : (s.setPort p q).allParked v = s.allParked v := rfl
theorem State.setPort_mapped (v : RailId) : (s.setPort p q).mapped v = s.mapped v := rfl
theorem State.setPort_waiting (v : RailId) : (s.setPort p q).waiting v = s.waiting v := rfl
theorem State.setPort_nextWaiting : (s.setPort p q).nextWaiting = s.nextWaiting := rfl
theorem State.setPort_linkBusy : (s.setPort p q).linkBusy = s.linkBusy := rfl
theorem State.setPort_channelFree : (s.setPort p q).channelFree = s.channelFree := rfl
theorem State.setPort_inUse (d : DomainId) (l : Level) : (s.setPort p q).inUse d l = s.inUse d l := rfl
theorem State.setPort_entryOutside (d : DomainId) (a b : Byte) :
    (s.setPort p q).entryOutside d a b = s.entryOutside d a b := rfl
theorem State.setPort_lineLevel (line : Option ThrottleLine) : (s.setPort p q).lineLevel line = s.lineLevel line := rfl
theorem State.setPort_countOn (d : DomainId) (cls : DemandClass) :
    (s.setPort p q).countOn d cls = s.countOn d cls := rfl

/-! ### Writes of one block -/

theorem State.setPort_setPort (x y : Port) : (s.setPort p x).setPort p y = s.setPort p y := by simp [State.setPort]
theorem State.setPort_self : s.setPort p (s.port p) = s := by simp [State.setPort, State.port]

theorem State.setPort_setRecord (h : Handle) (r : Option Record) :
    (s.setPort p q).setRecord h r = (s.setRecord h r).setPort p q := rfl
theorem State.setPort_setQuota (o : PortId) (n : Nat) :
    (s.setPort p q).setQuota o n = (s.setQuota o n).setPort p q := rfl
theorem State.setPort_setConfig (d : DomainId) (c : Configuration) :
    (s.setPort p q).setConfig d c = (s.setConfig d c).setPort p q := rfl
theorem State.setPort_setPoint (d : DomainId) (l : Level) (x : Point) :
    (s.setPort p q).setPoint d l x = (s.setPoint d l x).setPort p q := rfl
theorem State.setPort_setDomain (d : DomainId) (c : Domain) :
    (s.setPort p q).setDomain d c = (s.setDomain d c).setPort p q := rfl
theorem State.setPort_setRail (v : RailId) (r : Rail) :
    (s.setPort p q).setRail v r = (s.setRail v r).setPort p q := rfl
theorem State.setPort_setBox (o : PortId) (b : Box) :
    (s.setPort p q).setBox o b = (s.setBox o b).setPort p q := rfl
theorem State.setPort_mapRecordsOn (d : DomainId) (f : Record → Record) :
    (s.setPort p q).mapRecordsOn d f = (s.mapRecordsOn d f).setPort p q := rfl
theorem State.setPort_report (d : DomainId) (h : Handle) (k : ReportKind) :
    (s.setPort p q).report d h k = (s.report d h k).setPort p q := rfl
theorem State.setPort_dropStanding (o : PortId) (h : Handle) :
    (s.setPort p q).dropStanding o h = (s.dropStanding o h).setPort p q := rfl
theorem State.setPort_place (x : PortId × Notice) : (s.setPort p q).place x = (s.place x).setPort p q := rfl

theorem State.setPort_placeAll (xs : List (PortId × Notice)) :
    (s.setPort p q).placeAll xs = (s.placeAll xs).setPort p q := by
  induction xs generalizing s with
  | nil => rfl
  | cons x xs ih => exact ih (s.place x)

theorem State.setPort_raise (xs : List (PortId × Notice)) :
    (s.setPort p q).raise xs = (s.raise xs).setPort p q := by
  unfold State.raise
  by_cases h : xs = [] <;> simp only [h, if_true, if_false] <;> rfl

theorem State.setPort_retire (h : Handle) : (s.setPort p q).retire h = (s.retire h).setPort p q := by
  unfold State.retire
  rw [State.setPort_record]
  cases s.record h <;> rfl

theorem State.setPort_retireNotified (h : Handle) :
    (s.setPort p q).retireNotified h = (s.retireNotified h).setPort p q := by
  unfold State.retireNotified
  rw [State.setPort_record]
  cases s.record h <;> rfl

theorem State.setPort_foldl_out {out : State → Handle → State}
    (ho : ∀ (s : State) (h : Handle), out (s.setPort p q) h = (out s h).setPort p q) (hs : List Handle) :
    hs.foldl out (s.setPort p q) = (hs.foldl out s).setPort p q := by
  induction hs generalizing s with
  | nil => rfl
  | cons h hs ih => exact (congrArg (List.foldl out · hs) (ho s h)).trans (ih (out s h))

theorem State.setPort_retireSelected {out : State → Handle → State}
    (ho : ∀ (s : State) (h : Handle), out (s.setPort p q) h = (out s h).setPort p q) (gone : List (Handle × Record)) :
    (s.setPort p q).retireSelected out gone = (s.retireSelected out gone).setPort p q := by
  simp only [State.retireSelected, s.setPort_foldl_out p q ho]; rfl

/-! ### Domains, rails and the consent channel -/

theorem State.setPort_resolve (d : DomainId) : (s.setPort p q).resolve d = (s.resolve d).setPort p q := rfl
theorem State.setPort_unsettleRecords (d : DomainId) :
    (s.setPort p q).unsettleRecords d = (s.unsettleRecords d).setPort p q := rfl
theorem State.setPort_unholdRecords (d : DomainId) :
    (s.setPort p q).unholdRecords d = (s.unholdRecords d).setPort p q := rfl
theorem State.setPort_holdRecords (d : DomainId) :
    (s.setPort p q).holdRecords d = (s.holdRecords d).setPort p q := rfl

theorem State.setPort_evaluate (d : DomainId) (rule : Record → Option Verdict) :
    (s.setPort p q).evaluate d rule = (s.evaluate d rule).setPort p q :=
  State.setPort_placeAll (s.mapRecordsOn d _) p q _

theorem State.setPort_settle (d : DomainId) : (s.setPort p q).settle d = (s.settle d).setPort p q :=
  State.setPort_evaluate (s.setDomain d _) p q d _

theorem State.setPort_startStep (d : DomainId) (state : DomainState) (l : Level) :
    (s.setPort p q).startStep d state l = (s.startStep d state l).setPort p q := rfl

theorem State.setPort_plan (d : DomainId) : (s.setPort p q).plan d = (s.plan d).setPort p q := by
  unfold State.plan
  by_cases h : (s.domain d).target = (s.domain d).current
  · simp only [State.setPort_domain, h, if_true, State.setPort_settle]
  · by_cases k : s.code d (s.domain d).target > s.assured (s.railOf d) <;>
      simp only [State.setPort_domain, State.setPort_code, State.setPort_assured, State.setPort_railOf, h, k, if_true,
        if_false] <;> rfl

theorem State.setPort_serveConsent : (s.setPort p q).serveConsent = s.serveConsent.setPort p q := by
  unfold State.serveConsent
  by_cases h : s.channelFree = true
  · cases k : s.park.queue <;> simp only [State.setPort_channelFree, State.setPort_park, h, k, if_true] <;> rfl
  · simp only [State.setPort_channelFree, h, if_false, Bool.false_eq_true]

theorem State.setPort_leaveConsent (d : DomainId) :
    (s.setPort p q).leaveConsent d = (s.leaveConsent d).setPort p q := rfl

theorem State.setPort_withdraw (d : DomainId) : (s.setPort p q).withdraw d = (s.withdraw d).setPort p q := by
  simp only [State.withdraw, State.setPort_leaveConsent, State.setPort_serveConsent, State.setPort_domain,
    State.setPort_setDomain, State.setPort_plan]

theorem State.setPort_enterGate (d : DomainId) : (s.setPort p q).enterGate d = (s.enterGate d).setPort p q := rfl

theorem State.setPort_checkRailStage (d : DomainId) :
    (s.setPort p q).checkRailStage d = (s.checkRailStage d).setPort p q := by
  unfold State.checkRailStage
  by_cases h : s.assured (s.railOf d) ≥ s.code d (s.domain d).target <;>
    simp only [State.setPort_assured, State.setPort_code, State.setPort_domain, State.setPort_railOf, h, if_true,
      if_false] <;> rfl

theorem State.setPort_beginWake (d : DomainId) : (s.setPort p q).beginWake d = (s.beginWake d).setPort p q :=
  State.setPort_checkRailStage ((s.unsettleRecords d).setDomain d _) p q d

theorem State.setPort_enterParked (d : DomainId) : (s.setPort p q).enterParked d = (s.enterParked d).setPort p q :=
  State.setPort_evaluate (s.setDomain d _) p q d _

theorem State.setPort_act (d : DomainId) (old : Level) : (s.setPort p q).act d old = (s.act d old).setPort p q := by
  unfold State.act
  rw [State.setPort_domain, State.setPort_wanted]
  cases (s.domain d).state with
  | waking stage => cases stage <;> first | rfl | exact s.setPort_checkRailStage p q d
  | steady => exact s.setPort_plan p q d
  | raising =>
    by_cases h : (s.domain d).target = old
    · simp only [h, if_true]
    · simp only [h, if_false]; exact s.setPort_plan p q d
  | consent =>
    cases s.wanted d
    · rfl
    · exact s.setPort_withdraw p q d
  | parked =>
    cases s.wanted d
    · exact s.setPort_evaluate p q d parkedVerdict
    · exact s.setPort_beginWake p q d
  | _ => rfl

theorem State.setPort_closeDomain (d : DomainId) : (s.setPort p q).closeDomain d = (s.closeDomain d).setPort p q := rfl

theorem State.setPort_chooseRail : (s.setPort p q).chooseRail = s.chooseRail.setPort p q := by
  unfold State.chooseRail
  rw [State.setPort_linkBusy, State.setPort_link]
  cases s.linkBusy
  · cases s.link.elected with
    | none => rfl
    | some v =>
      by_cases h : s.waiting v = true <;>
        simp only [State.setPort_waiting, h, Bool.false_eq_true, if_true, if_false] <;> rfl
  · rfl

theorem State.setPort_reevaluate (v : RailId) : (s.setPort p q).reevaluate v = (s.reevaluate v).setPort p q := by
  unfold State.reevaluate
  simp only [State.setPort_rail, State.setPort_requiredCode, State.setPort_allParked, State.setPort_setRail,
    State.setPort_chooseRail]
  split <;> simp only [*, if_true, if_false, Bool.false_eq_true]

theorem State.setPort_finish (d : DomainId) : (s.setPort p q).finish d = (s.finish d).setPort p q := by
  simp only [State.finish, State.setPort_closeDomain, State.setPort_railOf, State.setPort_reevaluate]

theorem State.setPort_reresolve (d : DomainId) : (s.setPort p q).reresolve d = (s.reresolve d).setPort p q := by
  simp only [State.reresolve, State.setPort_resolve, State.setPort_domain, State.setPort_act, State.setPort_finish]

theorem State.setPort_reportCreated (d : DomainId) (cls : DemandClass) (h : Handle) :
    (s.setPort p q).reportCreated d cls h = (s.reportCreated d cls h).setPort p q := by
  unfold State.reportCreated
  rw [State.setPort_domain, State.setPort_reresolve, State.setPort_report]
  split <;> rfl

theorem State.setPort_inFreeOrder (ds : List DomainId) :
    (s.setPort p q).inFreeOrder ds = ((s.inFreeOrder ds).1, (s.inFreeOrder ds).2.setPort p q) := by
  unfold State.inFreeOrder
  by_cases h : ds.length ≤ 1 <;> simp only [h, if_true, if_false] <;> rfl

theorem State.setPort_releaseDomain (d : DomainId) :
    (s.setPort p q).releaseDomain d = (s.releaseDomain d).setPort p q := by
  unfold State.releaseDomain
  simp only [State.setPort_domain, State.setPort_setDomain, State.setPort_resolve, State.setPort_unholdRecords,
    State.setPort_wanted, State.setPort_config, State.setPort_beginWake, State.setPort_enterParked, State.setPort_plan,
    ← apply_ite (State.setPort · p q), State.setPort_closeDomain]

theorem State.setPort_releaseAll (ds : List DomainId) :
    ds.foldl State.releaseDomain (s.setPort p q) = (ds.foldl State.releaseDomain s).setPort p q := by
  induction ds generalizing s with
  | nil => rfl
  | cons d ds ih => simp only [List.foldl_cons, State.setPort_releaseDomain, ih]

theorem State.setPort_reevaluateBoth (v w : RailId) :
    (s.setPort p q).reevaluateBoth v w = (s.reevaluateBoth v w).setPort p q := by
  unfold State.reevaluateBoth
  simp only [State.setPort_reevaluate, State.setPort_link, State.setPort_choices]
  split
  · rfl
  · split <;> rfl

/-! ### Serving a request -/

variable {s p}

/-- A request that is awaited leaves the way, and nothing else changes. -/
theorem State.Awaits.takeSent {i : Instr} {rest : List Sent} (h : s.Awaits p i rest) :
    s.takeSent p i = some (true, s.setPort p { s.port p with sent := rest }) := by
  simp [State.takeSent, h.1]

/-- Serving an awaited request: the block works on the state in which the request has left the way, as it would on the
state as it was, and the port then holds the answer. -/
theorem State.serve_answered {i : Instr} {rest : List Sent} (h : s.Awaits p i rest) (body : State → State × Reply)
    (u : State) (r : Reply)
    (hbody : body (s.setPort p { s.port p with sent := rest }) = (u.setPort p { s.port p with sent := rest }, r))
    (hport : u.port p = s.port p) :
    s.serve p i body = u.answered p rest (r.frame i.commandCode) s := by
  simp only [State.serve, h.takeSent]
  rw [hbody]
  simp [State.answer, State.answered, State.changePort, State.view, State.setPort_setPort, h.2, hport]

/-- A request that is not the next on its way from its port is not taken. -/
theorem State.serve_of_not_next {i : Instr} (body : State → State × Reply) (h : s.takeSent p i = none) :
    s.serve p i body = s := by
  simp [State.serve, h]

/-! ### Transactions -/

section
variable (s : State) (p : PortId)

@[simp] theorem State.releasePort_port :
    (s.releasePort p).port p = { s.port p with past := [], since := (s.box p).turns } := by simp [State.releasePort]
@[simp] theorem State.releasePort_sdo : (s.releasePort p).sdo = s.sdo := rfl
@[simp] theorem State.changePort_port (v : View) (q : Port) :
    (s.changePort p v q).port p = { q with past := v :: (s.port p).past, since := (s.box p).turns } := by
  simp [State.changePort]
@[simp] theorem State.changePort_sdo (v : View) (q : Port) : (s.changePort p v q).sdo = s.sdo := rfl

/-- The release of a transaction changes what SDO carried and the port's notes of what first bits found, and nothing
else. -/
theorem State.shiftOut_eq (b : Begun) (bits : Nat) (shared : List Nat) :
    s.shiftOut p b bits shared =
      { s.setPort p { s.port p with past := [], since := (s.box p).turns } with
        sdo := some { port := p, levels := (List.range (min bits 64)).map (b.level shared) } } := rfl

@[simp] theorem State.shiftOut_port (b : Begun) (bits : Nat) (shared : List Nat) :
    (s.shiftOut p b bits shared).port p = { s.port p with past := [], since := (s.box p).turns } := by
  have h : (s.shiftOut p b bits shared).port p = (s.releasePort p).port p := rfl
  rw [h, State.releasePort_port]
@[simp] theorem State.setFraming_port (framing : Bool) :
    (s.setFraming p framing).port p = { s.port p with framing := framing } := by simp [State.setFraming]
@[simp] theorem State.emptySlot_port : (s.emptySlot p).port p = { s.port p with slot := .empty } := by
  simp [State.emptySlot]
@[simp] theorem State.setFraming_sdo (framing : Bool) : (s.setFraming p framing).sdo = s.sdo := rfl
@[simp] theorem State.emptySlot_sdo : (s.emptySlot p).sdo = s.sdo := rfl

/-- Nothing of a transaction that a reset broke off is known at its release. -/
@[simp] theorem State.begun_reset : s.begun p .reset = none := rfl

/-- A first bit that nothing has followed finds the port as it stands. -/
@[simp] theorem State.begun_now :
    s.begun p .now = some { view := s.view p, alert := s.alert p, cut := none } := rfl

/-- A first bit is one that the port has shown since its last transaction, with an ALERT that it had there. -/
theorem State.begun_eq_some {start : FirstBit} {b : Begun} (h : s.begun p start = some b) :
    ∃ back : Nat, (s.view p :: (s.port p).past)[back]? = some b.view ∧ (b.view.varied = true ∨ b.alert = b.view.alert) := by
  cases start with
  | now => cases h; exact ⟨0, rfl, Or.inr rfl⟩
  | reset => cases h
  | earlier back alert bytes =>
    simp only [State.begun] at h
    split at h
    · cases h
    · split at h
      · rename_i hv ha
        cases h
        exact ⟨back, hv, by simpa using ha⟩
      · cases h

/-- A frame shifted in goes to its port alone. -/
theorem State.receive_eq (f : Frame) :
    s.receive p f = s.setPort p (match f.request p with
      | .answered r => { s.port p with slot := .ready (r.frame f.b0) }
      | .passed i => { s.port p with slot := .working, sent := (s.port p).sent ++ [.request i true] }) := by
  unfold State.receive
  cases f.request p <;> rfl

end

end Sys2Proof.Machine
end

