-- ==== Sys2Proof/Tests/Slice0.lean ====
section
/-! SUPPORT. Tests: ill-formed commands that WellFormed refuses, request frames written out from Table 10-3, single steps
whose results are worked out by hand from the rules named, and for every statement with hypotheses a state and operands
that meet them. -/

namespace Sys2Proof.Tests

open Sys2Proof Sys2Proof.Machine

/-! ### Small states -/

/-- The part after reset, in RUN. -/
def running : State := { State.reset with phase := .run }

/-- Request `i` is the next on its way from port `p`, whose slot waits for its answer. -/
def asked (s : State) (p : PortId) (i : Instr) : State :=
  s.setPort p { s.port p with slot := .working, sent := [.request i true] }

theorem asked_awaits (s : State) (p : PortId) (i : Instr) : (asked s p i).Awaits p i [] := by
  simp [asked, State.Awaits, State.port, State.setPort]

/-- A supervisor request after reset in RUN. -/
def ordered (i : Instr) : State := asked running supervisor i

/-- A domain of the part in RUN with other contents. -/
def withDomain (d : DomainId) (c : Domain) : State := running.setDomain d c

/-- What a command leaves, seen through `f`. -/
def after (i : Instr) (s : State) (f : State → Bool) : Bool :=
  match exec i s with
  | .next t => f t
  | .fault _ => false
  | .refused _ => false

/-- The answer that a port holds. -/
def answerOf (s : State) (p : PortId) : Option Frame :=
  match (s.port p).slot with
  | .ready f => some f
  | _ => none

/-- A FLOOR of A0 on D0 and a CAP of A1 on D0. -/
def floor : Record where
  owner := 0
  domain := 0
  cls := .floor
  level := 5
  tag := 0x77
  lease := some { remaining := 2, due := false }
  generation := 1
  acknowledged := 0
  lastSettled := none
  status := .pending

def cap : Record where
  owner := 1
  domain := 0
  cls := .cap
  level := 3
  tag := 0x66
  lease := none
  generation := 255
  acknowledged := 1
  lastSettled := none
  status := .pending

/-- The part in RUN with those two records at handles 0 and 1. -/
def filed : State := (running.setRecord 0 (some floor)).setRecord 1 (some cap)

/-- L3 and L5 of D0 made valid, with codes above the confirmed one. -/
def tuned : State :=
  (running.setPoint 0 3 { valid := true, clock := 0x33, volt := 0x90 }).setPoint 0 5
    { valid := true, clock := 0x55, volt := 0xA0 }

/-! ### Well-formedness: a term for each check, which the check refuses -/

theorem test_wf_cut : (Instr.transaction 0 (.earlier 1 false 9) ⟨0, 0, 0, 0, 0, 0, 0, 0⟩).wf = false := by decide
theorem test_wf_cut_malformed : (Instr.malformedTransaction 0 (.earlier 1 false 9) 3 none).wf = false := by decide
theorem test_wf_whole_frame_is_no_malformed : (Instr.malformedTransaction 0 .now 64 none).wf = false := by decide
theorem test_wf_force : (Instr.force 0 (.other 1)).wf = false := by decide
theorem test_wf_evict : (Instr.evictHandleForm (.otherForm 0)).wf = false := by decide
theorem test_wf_clear : (Instr.clearFaultRailForm (.otherForm 1)).wf = false := by decide
theorem test_wf_notice : (Instr.noticeArrival 3 (.railFault 0)).wf = false := by decide
theorem test_wf_accepts : (Instr.noticeArrival supervisor (.railFault 0)).wf = true := by decide

/-! ### Request frames, byte by byte from Table 10-3, and the port's checks -/

theorem test_frame_file : Frame.request ⟨0x10, 0x0B, 0x01, 0x0F, 0x12, 0x34, 0xA5, 0x00⟩ 3 =
    .passed (.file 3 11 .cap 15 0x1234 0xA5) := by decide
theorem test_frame_renew : Frame.request ⟨0x11, 0x3F, 0x00, 0x64, 0xEE, 0xEE, 0xEE, 0xEE⟩ 0 =
    .passed (.renew 0 63 100) := by decide
theorem test_frame_setLevels : Frame.request ⟨0x41, 0x02, 0x01, 0x03, 0x02, 0x0E, 0x00, 0x00⟩ supervisor =
    .passed (.setLevels 2 1 3 2 14) := by decide
theorem test_frame_setRail : Frame.request ⟨0x47, 0x03, 0x10, 0xF0, 0x80, 0x40, 0x05, 0x00⟩ supervisor =
    .passed (.setRail 3 0x10 0xF0 0x80 0x40 0x05) := by decide
theorem test_frame_evict_port : Frame.request ⟨0x53, 0x01, 0x08, 0x00, 0x00, 0x00, 0x00, 0x00⟩ supervisor =
    .passed (.evictPortForm 8) := by decide
theorem test_frame_clear_domain : Frame.request ⟨0x54, 0x01, 0x0B, 0x00, 0x00, 0x00, 0x00, 0x00⟩ supervisor =
    .passed (.clearFaultDomainForm 11) := by decide
theorem test_frame_unknown : Frame.request ⟨0x59, 0, 0, 0, 0, 0, 0, 0⟩ supervisor =
    .answered (.refuse .unknownCommand) := by decide
theorem test_frame_not_permitted : Frame.request ⟨0x48, 0xFF, 0, 0, 0, 0, 0, 0⟩ 0 =
    .answered (.refuse .notPermitted) := by decide
theorem test_frame_range : Frame.request ⟨0x10, 0x0C, 0, 0, 0, 0, 0, 0⟩ 0 = .answered (.refuse .badArgument) := by
  decide
theorem test_word_spells_none : decodeTableWord 8 0 = none := by decide

/-! ### Single steps -/

/-- R11: level, lease, generation 1, PENDING; R9: one report. -/
theorem test_file : after (.file 0 3 .floor 5 100 9) (asked running 0 (.file 0 3 .floor 5 100 9)) (fun t =>
    (t.record 0).map (fun r => (r.level, r.generation, r.status)) = some (5, 1, .pending) ∧
      answerOf t 0 = some ⟨0x00, 0x10, 0, 1, 0, 0, 0, 0⟩) = true := by decide
/-- R12: generation 255 advances to 1, and an acknowledged generation equal to it becomes 0. -/
theorem test_replace : after (.file 1 0 .cap 7 0 9) (asked filed 1 (.file 1 0 .cap 7 0 9)) (fun t =>
    (t.record 1).map (fun r => (r.generation, r.acknowledged)) = some (1, 0)) = true := by decide
/-- R13, R17: a lease of 2 shows 1 after one boundary and comes due at the next. -/
theorem test_millisecond : after .millisecondBoundary filed (fun t =>
    (t.record 0).map Record.lease = some (some { remaining := 1, due := false })) = true := by decide
/-- R28, R29, R32: FLOOR 5 under CAP 3 gives 3 with CAP governing, and L3, not valid, rounds down to L0. -/
theorem test_resolution : (filed.base 0 = (3, .cap)) ∧ filed.resolution 0 = (0, .cap) := by decide
/-- R32: a valid entry above the result wins over one below it. -/
theorem test_rounds_up : ({ tuned with records := running.records }.setConfig 0
    { tuned.config 0 with rest := 4 }).resolution 0 = (5, .rest) := by decide
/-- R66, Table 4-4: a target that the rail does not cover puts the domain in RAISING with the need of the target. -/
theorem test_force_raises : after (.force 0 (.set 3)) (asked tuned supervisor (.force 0 (.set 3))) (fun t =>
    (t.domain 0).state = .raising ∧ (t.domain 0).need = some 0x90 ∧
      (t.rail 0).command = .queued 0x90 ∧ (t.rail 0).state = .raising) = true := by decide
/-- R162: the command frame of V2, transfer bit 1, code 90h is 56h 90h. -/
theorem test_command_frame : commandFrame 2 0x90 true = (0x56, 0x90) := by decide
/-- R162: AAh is an ACK, transfer bit 0, V2; 5Ah is no reply. -/
theorem test_reply : readReply 0xAA = some (true, false, 2) ∧ readReply 0x5A = none := by decide
/-- R85: with domains at code 80h mapped and the reset window, the required code is 80h. -/
theorem test_required : running.requiredCode 1 = 0x80 := by decide
/-- R141: a CLAMPED takes the IN_FORCE of the same handle with it. -/
theorem test_place : (Box.place { pending := [.inForce 4 1 1 2], lost := false, leaving := [], turns := 0 } (.clamped 4 1 2 1)).pending =
    [.clamped 4 1 2 1] := by decide
/-- Table 8-2, at a full set: EVICTED(5) takes CLAMPED(5) out and finds room, EVICTED(16) is discarded. -/
theorem test_evictions_overflow :
    let full : Box := { pending := .clamped 5 1 1 2 :: (List.finRange 15).map fun d : Fin 15 => .evicted ⟨d + 20, by omega⟩ 1,
                        lost := false, leaving := [5, 16], turns := 0 }
    ((full.place (.evicted 5 1)).pending.length = 16 ∧ (full.place (.evicted 5 1)).lost = false ∧
      Notice.clamped 5 1 1 2 ∉ (full.place (.evicted 5 1)).pending) ∧
    ((full.place (.evicted 5 1)).place (.evicted 16 1)).lost = true := by decide
/-- R149, R152: a malformed transaction of 9 bits on a port with FRAMING set shifts out the first 9 bits of the NONE
marker, FRAMING in bit 7. -/
theorem test_malformed_shifts_out : after (.malformedTransaction 0 .now 9 none)
    (running.setPort 0 { running.port 0 with framing := true }) (fun t =>
    t.sdo = some { port := 0, levels := [true, false, false, false, false, false, false, true, false].map some }) =
      true := by decide
/-- R153: while another select is asserted SDO is not driven. R157: a fall after one byte leaves 00h. -/
theorem test_sdo_released_and_cut :
    after (.malformedTransaction 0 .now 3 (some [1])) running (fun t =>
      t.sdo = some { port := 0, levels := [some false, none, some false] } ∧ (t.port 0).framing = true) = true ∧
    after (.malformedTransaction 0 (.earlier 1 true 1) 16 none)
      (running.setPort 0 { resetPort false with
        past := [{ slot := .working, framing := true, present := true, alert := true, varied := false }] })
      (fun t => t.sdo.map (fun x => x.levels.drop 7) = some (some false :: List.replicate 8 (some false)) ∧
        t.sdo.map (fun x => x.levels.take 3) = some [some true, some true, some false] ∧
        (t.port 0).framing = false) = true := by decide
/-- R146: after reset no first bit shows an ALERT. Once a notice has joined an empty set, a first bit may have come before
it or after it; once that transaction is released, no more before it. -/
theorem test_alert_of_the_first_bit :
    (State.reset.begun 0 (.earlier 0 true 8)) = none ∧
    (let s := running.place (0, .domainHeld 3);
      (s.begun 0 .now).map (fun b => b.frame.b0) = some 0x41 ∧
      (s.begun 0 (.earlier 0 false 8)).map (fun b => b.frame.b0) = some 0x01 ∧
      ((s.releasePort 0).begun 0 (.earlier 0 false 8)) = none) := by decide
/-- R144: an empty set with the lost flag gives OVERFLOW and clears the flag. -/
theorem test_overflow : after (.takeNotice 2)
    (asked (running.setBox 2 { pending := [], lost := true, leaving := [], turns := 0 }) 2 (.takeNotice 2)) (fun t =>
    answerOf t 2 = some ⟨0x00, 0x28, 0x0F, 0, 0, 0, 0, 0⟩ ∧ (t.box 2).lost = false) = true := by decide
/-- R24, R25: the records of a lost agent are retired, and S is told. -/
theorem test_loss : after (.portLoss 0) (filed.setPort 0 { filed.port 0 with sent := [.loss] }) (fun t =>
    t.record 0 = none ∧ (t.record 1).isSome ∧ t.raised = [[(supervisor, .portLost 0)]]) = true := by decide
/-- R96, R97: an ACK of a lower with PG high confirms it. -/
theorem test_lower_confirmed : after (.regulatorReply 0xA8 true)
    { running.setRail 0 { running.rail 0 with command := .outstanding 0x70 .one .awaitingReply } with
      link := { running.link with
        transfer := some { rail := 0, code := 0x70, tries := .one, bit := false, disregarded := false }
        replyTimer := some 4, resetHold := none } } (fun t =>
    (t.rail 0).confirmed = 0x70 ∧ t.link.transfer = none) = true := by decide
/-- R125 to R129: PG falling faults the rail, its domains are frozen at their safe levels, and the fallback is queued. -/
theorem test_fault : after (.pgFall 0) running (fun t =>
    (t.rail 0).state = .fallback ∧ (t.domain 4).state = .frozen ∧ (t.rail 0).command = .queued 0x80 ∧
      (t.domain 1).state = .steady) = true := by decide
/-- R110: a grant parks the domain of the request: GATE closes and the gate settle time of 100 µs starts. -/
theorem test_grant : after .cgrantRise
    { withDomain 2 { resetDomain with state := .consent, settled := false } with
      park := { running.park with request := some (2, 7) } } (fun t =>
    (t.domain 2).state = .parking ∧ (t.domain 2).gated ∧ (t.domain 2).gateTimer = some 100 ∧
      t.park.request = none) = true := by decide

/-! ### States that meet the hypotheses of the statements -/

theorem resetDomain_moves : resetDomain.MovesSound := by simp [Domain.MovesSound, resetDomain, DomainState.gate]

/-- One domain with other contents that agree with its state, on a part whose other domains are as at reset. -/
theorem moves_of (s : State) (hs : ∀ e, s.domain e = resetDomain) (d : DomainId) {c : Domain} (hc : c.MovesSound)
    (hq : c.quietTimer = none) : (s.setDomain d c).MovesSound := by
  intro e
  by_cases h : e = d
  · subst h
    have he : (s.setDomain e c).domain e = c := by simp [State.setDomain, State.domain]
    rw [he]
    exact ⟨hc, fun k => absurd hq k⟩
  · have he : (s.setDomain d c).domain e = resetDomain := by
      rw [← hs e]
      have h' : (d : Nat) ≠ e := fun x => h (Fin.ext x.symm)
      simp [State.setDomain, State.domain, h']
    rw [he]
    exact ⟨resetDomain_moves, fun k => absurd rfl k⟩

theorem running_domains : ∀ e, running.domain e = resetDomain := by decide
theorem tuned_domains : ∀ e, tuned.domain e = resetDomain := by decide
theorem filed_domains : ∀ e, filed.domain e = resetDomain := by decide

def raising : Domain :=
  { resetDomain with state := .raising, settled := false, target := 3, need := some 0x90, assuredNews := true }
def stepping : Domain :=
  { resetDomain with state := .stepping, settled := false, target := 3, step := some 3, lockTimer := some 9 }
def consenting : Domain := { resetDomain with state := .consent, settled := false }
def parking : Domain :=
  { resetDomain with
    state := .parking, settled := false, gated := true, gateTimer := some 9, strobe := some .stop, need := none }
def parked : Domain := { resetDomain with state := .parked, settled := false, gated := true, need := none }
def wakingRail : Domain :=
  { resetDomain with state := .waking .rail, settled := false, gated := true, assuredNews := true }
def wakingGate : Domain := { resetDomain with state := .waking .gate, settled := false, gateTimer := some 9 }
def wakingClock : Domain :=
  { resetDomain with state := .waking .clock, settled := false, step := some 0, strobe := some (.step 0) }
def freezing : Domain :=
  { resetDomain with state := .frozen, settled := false, cause := .rail, step := some 0, lockTimer := some 1 }
def clockFault : Domain :=
  { resetDomain with state := .frozen, settled := false, cause := .clock, gated := true, need := none }
def off : Domain :=
  { resetDomain with state := .off, settled := false, cause := .rail, gated := true, need := none }

theorem test_domains_sound : raising.MovesSound ∧ stepping.MovesSound ∧ consenting.MovesSound ∧ parking.MovesSound ∧
    parked.MovesSound ∧ wakingRail.MovesSound ∧ wakingGate.MovesSound ∧ wakingClock.MovesSound ∧ freezing.MovesSound ∧
    clockFault.MovesSound ∧ off.MovesSound := by
  simp [Domain.MovesSound, DomainState.gate, resetDomain, raising, stepping, consenting, parking, parked, wakingRail,
    wakingGate, wakingClock, freezing, clockFault, off]

/-- A domain frozen in place at its safe level by a fault of its rail. -/
def heldDomain : Domain := { resetDomain with state := .frozen, settled := false, cause := .rail }

/-- V1 in FALLBACK without a command, with D1 in its freezing step and D5 and D9 as `c`. -/
def falling (c : Domain) : State :=
  (((running.setRail 1 { resetRail with state := .fallback, cause := .nak }).setDomain 1 freezing).setDomain 5
    c).setDomain 9 c

/-- R129: the fallback code is queued at the LOCK, or at the lock timeout, that leaves the last domain in place, and not
before. -/
theorem test_fallback_command :
    (∀ i ∈ [Instr.lockRise 1, .freezingLockTimeout 1],
      after i (falling heldDomain) (fun t => (t.rail 1).command = .queued 0x80) = true) ∧
    ∀ i ∈ [Instr.lockRise 1, .freezingLockTimeout 1],
      after i (falling freezing) (fun t => (t.rail 1).command = .none) = true := by decide
/-- R41, R116: a CAP of A1 at handle 1 whose domain parks at L0 is told so by IN_FORCE with its tag and generation. -/
theorem test_park_notice : after (.gateSettleExpiry 0)
    ((running.setRecord 1 (some cap)).setDomain 0 parking) (fun t =>
      (t.domain 0).state = .parked ∧ (t.box 1).pending = [.inForce 1 0x66 255 0]) = true := by decide

/-! ### Witnesses, in the order of the statements -/

theorem witness_StepRunsFrontCommand :
    ({ running with pending := [.openPhase, .cgrantRise] } : State).pending = .openPhase :: [.cgrantRise] := by decide

theorem witness_IdleStepCountsTimersDown :
    State.reset.pending = [] ∧
    (running.setRail 0 { resetRail with command := .outstanding 0x90 .one (.settling 0) }).pending = [] ∧
    ((running.setRail 0 { resetRail with command := .outstanding 0x90 .one (.settling 0) }).rail 0).command =
      .outstanding 0x90 .one (.settling 0) ∧
    (State.reset.rail 1).command = .none := by decide

theorem witness_RequestFramesRoundTrip :
    (Instr.file 3 11 .cap 15 0xFFFF 0xFF).wf = true ∧ (Instr.file 3 11 .cap 15 0xFFFF 0xFF).requester = some 3 ∧
    Frame.request ⟨0x54, 0x02, 0xFF, 0, 0, 0, 0, 0⟩ supervisor = .passed (.clearFaultRailForm (.otherForm 2)) := by
  decide

/-- Frames at the first value each range check refuses. -/
def badFrames : List Frame :=
  [⟨0x10, 12, 0, 0, 0, 0, 0, 0⟩, ⟨0x10, 0, 2, 0, 0, 0, 0, 0⟩, ⟨0x10, 0, 0, 16, 0, 0, 0, 0⟩,
    ⟨0x11, 64, 0, 0, 0, 0, 0, 0⟩, ⟨0x20, 12, 0, 0, 0, 0, 0, 0⟩, ⟨0x21, 4, 0, 0, 0, 0, 0, 0⟩,
    ⟨0x40, 12, 0, 0, 0, 0, 0, 0⟩, ⟨0x40, 0, 16, 0, 0, 0, 0, 0⟩, ⟨0x41, 0, 0, 0, 0, 16, 0, 0⟩,
    ⟨0x42, 0, 0, 16, 0, 0, 0, 0⟩, ⟨0x44, 0, 4, 0, 0, 0, 0, 0⟩, ⟨0x52, 0, 1, 16, 0, 0, 0, 0⟩, ⟨0x47, 4, 0, 0, 0, 0, 0, 0⟩,
    ⟨0x48, 9, 0, 0, 0, 0, 0, 0⟩, ⟨0x53, 0, 64, 0, 0, 0, 0, 0⟩, ⟨0x53, 1, 9, 0, 0, 0, 0, 0⟩,
    ⟨0x54, 0, 4, 0, 0, 0, 0, 0⟩, ⟨0x54, 1, 12, 0, 0, 0, 0, 0⟩]

/-- Frames with every argument at its largest value in range, and the unread bytes at FFh. -/
def goodFrames : List Frame :=
  [⟨0x10, 11, 1, 15, 0xFF, 0xFF, 0xFF, 0xFF⟩, ⟨0x11, 63, 0xFF, 0xFF, 0xFF, 0xFF, 0xFF, 0xFF⟩,
    ⟨0x19, 63, 0xFF, 0xFF, 0xFF, 0xFF, 0xFF, 0xFF⟩, ⟨0x22, 11, 0xFF, 0xFF, 0xFF, 0xFF, 0xFF, 0xFF⟩,
    ⟨0x21, 3, 0xFF, 0xFF, 0xFF, 0xFF, 0xFF, 0xFF⟩, ⟨0x28, 0xFF, 0xFF, 0xFF, 0xFF, 0xFF, 0xFF, 0xFF⟩,
    ⟨0x40, 11, 15, 0xFF, 0xFF, 0xFF, 0xFF, 0xFF⟩, ⟨0x41, 11, 15, 15, 15, 15, 0xFF, 0xFF⟩,
    ⟨0x42, 11, 0xFF, 15, 0xFF, 0xFF, 0xFF, 0xFF⟩, ⟨0x45, 11, 0xFF, 0xFF, 0xFF, 0xFF, 0xFF, 0xFF⟩,
    ⟨0x44, 11, 3, 0xFF, 0xFF, 0xFF, 0xFF, 0xFF⟩, ⟨0x46, 0xFF, 0xFF, 0xFF, 0xFF, 0xFF, 0xFF, 0xFF⟩,
    ⟨0x47, 3, 0xFF, 0xFF, 0xFF, 0xFF, 0xFF, 0xFF⟩, ⟨0x58, 8, 0xFF, 0xFF, 0xFF, 0xFF, 0xFF, 0xFF⟩,
    ⟨0x52, 11, 1, 15, 0xFF, 0xFF, 0xFF, 0xFF⟩, ⟨0x52, 11, 0xFF, 0xFF, 0xFF, 0xFF, 0xFF, 0xFF⟩,
    ⟨0x53, 0, 63, 0xFF, 0xFF, 0xFF, 0xFF, 0xFF⟩, ⟨0x53, 1, 8, 0xFF, 0xFF, 0xFF, 0xFF, 0xFF⟩,
    ⟨0x54, 0, 3, 0xFF, 0xFF, 0xFF, 0xFF, 0xFF⟩, ⟨0x54, 1, 11, 0xFF, 0xFF, 0xFF, 0xFF, 0xFF⟩,
    ⟨0x55, 0xFF, 0xFF, 0xFF, 0xFF, 0xFF, 0xFF, 0xFF⟩]

theorem witness_PortChecksInOrder :
    (∀ f ∈ badFrames, f.request supervisor = .answered (.refuse .badArgument)) ∧
    ((0x01 : Byte) ∉ anyPortCommands ∧ (0x01 : Byte) ∉ supervisorCommands) ∧
    ((0x58 : Byte) ∈ supervisorCommands ∧ (0 : PortId) ≠ supervisor) ∧
    Frame.request ⟨0x00, 1, 2, 3, 4, 5, 6, 7⟩ 0 = .answered .done ∧
    Frame.request ⟨0x53, 2, 64, 0, 0, 0, 0, 0⟩ supervisor = .passed (.evictHandleForm (.otherForm 2)) ∧
    ((2 : Byte) ≠ 1 ∧ (11 : Byte).toNat ≤ 11) ∧
    (∀ f ∈ goodFrames, ∃ i, f.request supervisor = .passed i) ∧
    (∀ n, n ≤ argumentBytes ⟨0x12, 63, 1, 2, 3, 4, 5, 6⟩ →
      Frame.byteAt ⟨0x12, 63, 9, 9, 9, 9, 9, 9⟩ n = Frame.byteAt ⟨0x12, 63, 1, 2, 3, 4, 5, 6⟩ n) := by
  refine ⟨by decide, by decide, by decide, by decide, by decide, by decide, ?_, ?_⟩
  · intro f hf
    have h : ∀ f ∈ goodFrames, ∀ r, f.request supervisor ≠ .answered r := by
      intro f hf r hr
      have : ∀ f ∈ goodFrames, (match f.request supervisor with | .answered _ => true | .passed _ => false) = false := by
        decide
      have := this f hf
      rw [hr] at this
      cases this
    cases e : f.request supervisor with
    | answered r => exact absurd e (h f hf r)
    | passed i => exact ⟨i, rfl⟩
  · decide

theorem witness_RequestsAreAnsweredOrDropped :
    (asked running 0 (.renew 0 0 1)).Awaits 0 (.renew 0 0 1) [] ∧ (Instr.renew 0 0 1).requester = some 0 ∧
    ((running.setPort 0 { running.port 0 with sent := [.request (.renew 0 0 1) false, .loss] }).port 0).sent =
      .request (.renew 0 0 1) false :: [.loss] :=
  ⟨asked_awaits _ _ _, by decide, by decide⟩

/-- A held response of A0 with FRAMING and ALERT set. -/
def heldView : View where
  slot := .ready ⟨0x12, 0x10, 0, 0, 0, 0, 0, 0⟩
  framing := true
  present := true
  alert := true
  varied := false

/-- An empty port. -/
def emptyView (present : Bool) : View where
  slot := .empty
  framing := false
  present := present
  alert := false
  varied := false

/-- A0 held that response, was lost, returned, and has been lost again, all since its last transaction. -/
def severed : State :=
  running.setPort 0 { resetPort false with past := [emptyView true, emptyView false, heldView] }

theorem severed_views : severed.view 0 :: (severed.port 0).past =
    [emptyView false, emptyView true, emptyView false, heldView] := by decide

/-- The transactions that the port can and cannot have begun. -/
theorem severed_began :
    severed.Began 0 heldView ⟨0xD2, 0x10, 0, 0, 0, 0, 0, 0⟩ 3 true (.earlier 3 true 3) ∧
    severed.Began 0 (emptyView true) ⟨0x01, 0, 0, 0, 0, 0, 0, 0⟩ 0 true (.earlier 1 false 0) ∧
    severed.Began 0 (emptyView false) ⟨0x03, 0, 0, 0, 0, 0, 0, 0⟩ 4 true (.earlier 2 false 4) ∧
    severed.Began 0 (emptyView false) ⟨0x03, 0, 0, 0, 0, 0, 0, 0⟩ 8 false .now ∧
    ¬∃ v g bytes cut, severed.Began 0 v g bytes cut (.earlier 4 false 8) := by
  have at_ (k : Nat) {v : View} (h : [emptyView false, emptyView true, emptyView false, heldView][k]? = some v) :
      (severed.view 0 :: (severed.port 0).past)[k]? = some v := severed_views ▸ h
  have fall {k : Nat} (hk : 0 < k) : ∃ j < k, ∃ w x, (severed.view 0 :: (severed.port 0).past)[j]? = some w ∧
      (severed.view 0 :: (severed.port 0).past)[j + 1]? = some x ∧ w.present = false ∧ x.present = true :=
    ⟨0, hk, _, _, at_ 0 rfl, at_ 1 rfl, rfl, rfl⟩
  refine ⟨⟨at_ 3 rfl, Or.inr rfl, by unfold View.Shows; decide, iff_of_true rfl (fall (by decide)), rfl⟩,
    ⟨at_ 1 rfl, Or.inr rfl, by unfold View.Shows; decide, iff_of_true rfl (fall (by decide)), rfl⟩,
    ⟨at_ 2 rfl, Or.inr rfl, by unfold View.Shows; decide, iff_of_true rfl (fall (by decide)), rfl⟩,
    ⟨by decide, by unfold View.Shows; decide, rfl, rfl⟩, ?_⟩
  rintro ⟨v, g, bytes, cut, h, -⟩
  rw [severed_views] at h
  cases h

theorem witness_TransactionByWhatItShiftsOut :
    (let s := running.setPort 0 { running.port 0 with slot := .ready ⟨0x12, 0x10, 0, 0, 0, 0, 0, 0⟩ };
      s.Began 0 (s.view 0) ⟨0x12, 0x10, 0, 0, 0, 0, 0, 0⟩ 8 false .now) ∧
    running.Began 0 (emptyView true) ⟨0x01, 0, 0, 0, 0, 0, 0, 0⟩ 8 false .now ∧
    (let s := asked running 0 (.takeNotice 0); s.Began 0 (s.view 0) ⟨0x02, 0, 0, 0, 0, 0, 0, 0⟩ 8 false .now) ∧
    severed.Began 0 (emptyView false) ⟨0x03, 0, 0, 0, 0, 0, 0, 0⟩ 8 false .now ∧
    severed.Began 0 heldView ⟨0xD2, 0x10, 0, 0, 0, 0, 0, 0⟩ 3 true (.earlier 3 true 3) ∧
    FirstBit.earlier 4 false 8 ≠ .reset ∧
    ¬∃ v g bytes cut, severed.Began 0 v g bytes cut (.earlier 4 false 8) :=
  ⟨⟨rfl, by unfold View.Shows; decide, rfl, rfl⟩, ⟨by decide, by unfold View.Shows; decide, rfl, rfl⟩,
    ⟨rfl, by unfold View.Shows; decide, rfl, rfl⟩, severed_began.2.2.2.1, severed_began.1, by decide, severed_began.2.2.2.2⟩

theorem witness_FirstBitFindsSlotAndFlags :
    (Frame.mk 0x3F 0 0 0 0 0 0 0).b0.toNat < 64 ∧ (Frame.mk 0 0 0 0 0 0 0 0).b0.toNat < 64 ∧
    ((running.setPort 0 (resetPort false)).port 0).present = false ∧ (running.port 8).present = true ∧
    (running.port 8).slot = .empty ∧ ((asked running 8 .openPhase).port 8).slot = .working ∧
    (running.port 0).past = [] ∧ (running.box 0).turns = (running.port 0).since ∧
    (∀ r, (running.view 0).slot = .ready r → r.b0.toNat < 64) ∧ (running.view 0).varied = false ∧
    (severed.view 0).present = false := by
  refine ⟨by decide, by decide, by decide, by decide, by decide, by decide, by decide, by decide, ?_, by decide, by decide⟩
  intro r h
  have : (running.view 0).slot = .empty := by decide
  rw [this] at h
  cases h

theorem witness_MalformedTransactionSetsFramingOnly :
    ((63 : Nat) ≠ 64 ∨ (none : Option (List Nat)) ≠ none) ∧ ((64 : Nat) ≠ 64 ∨ (some [] : Option (List Nat)) ≠ none) ∧
    running.Began 0 (emptyView true) ⟨0x01, 0, 0, 0, 0, 0, 0, 0⟩ 8 false .now ∧
    severed.Began 0 (emptyView false) ⟨0x03, 0, 0, 0, 0, 0, 0, 0⟩ 8 false .now ∧
    severed.Began 0 heldView ⟨0xD2, 0x10, 0, 0, 0, 0, 0, 0⟩ 3 true (.earlier 3 true 3) ∧
    FirstBit.earlier 4 false 8 ≠ .reset ∧
    ¬∃ v g bytes cut, severed.Began 0 v g bytes cut (.earlier 4 false 8) :=
  ⟨by decide, by decide, ⟨by decide, by unfold View.Shows; decide, rfl, rfl⟩, severed_began.2.2.2.1, severed_began.1,
    by decide, severed_began.2.2.2.2⟩

theorem witness_PresentEdgesEmptyThePort :
    (running.port (Fin.castSucc (7 : AgentId))).present = true ∧
    ((running.setPort 7 (resetPort false)).port (Fin.castSucc (7 : AgentId))).present = false := by decide

theorem witness_FileCreatesARecord :
    ((asked running 0 (.file 0 3 .floor 5 100 9)).Awaits 0 (.file 0 3 .floor 5 100 9) [] ∧
      (asked running 0 (.file 0 3 .floor 5 100 9)).phase = .run ∧
      (asked running 0 (.file 0 3 .floor 5 100 9)).NoKey 0 3 .floor ∧
      (asked running 0 (.file 0 3 .floor 5 100 9)).liveCount 0 < (asked running 0 (.file 0 3 .floor 5 100 9)).quota 0 ∧
      (asked running 0 (.file 0 3 .floor 5 100 9)).LowestFree 0 ∧
      ¬(DemandClass.floor = .floor ∧ ((asked running 0 (.file 0 3 .floor 5 100 9)).domain 3).state = .parked)) ∧
    (let s := asked (withDomain 3 parked) 8 (.file 8 3 .floor 15 0 9);
      s.Awaits 8 (.file 8 3 .floor 15 0 9) [] ∧ s.phase = .run ∧ s.NoKey 8 3 .floor ∧ s.liveCount 8 < s.quota 8 ∧
        s.LowestFree 0 ∧ (s.domain 3).state = .parked) := by
  refine ⟨⟨asked_awaits _ _ _, ?_⟩, asked_awaits _ _ _, ?_⟩ <;> unfold State.NoKey State.LowestFree <;> decide

theorem witness_FileReplacesARecord :
    (let s := asked filed 1 (.file 1 0 .cap 7 0xFFFF 9);
      s.Awaits 1 (.file 1 0 .cap 7 0xFFFF 9) [] ∧ s.phase = .run ∧ s.KeysUnique ∧ s.record 1 = some cap ∧
        cap.owner = 1 ∧ cap.domain = 0 ∧ cap.cls = .cap) := by
  refine ⟨asked_awaits _ _ _, ?_⟩
  unfold State.KeysUnique
  decide

theorem witness_FileRefusalsInOrder :
    ((asked State.reset 0 (.file 0 3 .floor 5 100 9)).Awaits 0 (.file 0 3 .floor 5 100 9) [] ∧
      (asked State.reset 0 (.file 0 3 .floor 5 100 9)).phase = .setup) ∧
    (let s := asked (running.setQuota 0 0) 0 (.file 0 3 .floor 5 100 9);
      s.Awaits 0 (.file 0 3 .floor 5 100 9) [] ∧ s.phase = .run ∧ s.NoKey 0 3 .floor ∧ s.quota 0 ≤ s.liveCount 0) ∧
    (let s := asked { running with records := Vector.replicate 64 (some cap) } 0 (.file 0 3 .floor 5 100 9);
      s.Awaits 0 (.file 0 3 .floor 5 100 9) [] ∧ s.phase = .run ∧ s.NoKey 0 3 .floor ∧ s.liveCount 0 < s.quota 0 ∧
        ∀ h, s.record h ≠ none) := by
  refine ⟨⟨asked_awaits _ _ _, ?_⟩, ⟨asked_awaits _ _ _, ?_⟩, asked_awaits _ _ _, ?_⟩ <;>
    first | decide | (unfold State.NoKey; decide)

theorem witness_RenewAndRelease :
    ((asked filed 0 (.renew 0 0 0)).Awaits 0 (.renew 0 0 0) [] ∧ filed.record 0 = some floor ∧ floor.owner = 0) ∧
    ((asked filed 0 (.renew 0 63 0xFFFF)).Awaits 0 (.renew 0 63 0xFFFF) [] ∧ filed.record 63 = none) ∧
    ((asked filed 8 (.renew 8 0 1)).Awaits 8 (.renew 8 0 1) [] ∧ floor.owner ≠ 8) ∧
    (asked filed 0 (.release 0 0)).Awaits 0 (.release 0 0) [] ∧
    (asked filed 0 (.release 0 63)).Awaits 0 (.release 0 63) [] ∧
    (asked filed 8 (.release 8 0)).Awaits 8 (.release 8 0) [] :=
  ⟨⟨asked_awaits _ _ _, by decide⟩, ⟨asked_awaits _ _ _, by decide⟩, ⟨asked_awaits _ _ _, by decide⟩,
    asked_awaits _ _ _, asked_awaits _ _ _, asked_awaits _ _ _⟩

theorem witness_DemandReadsChangeNothing :
    ((asked filed 8 (.readDemand 8 0)).Awaits 8 (.readDemand 8 0) [] ∧ filed.record 0 = some floor) ∧
    ((asked filed 0 (.readDemand 0 2)).Awaits 0 (.readDemand 0 2) [] ∧ filed.record 2 = none) ∧
    ((asked filed 1 (.readDemand 1 0)).Awaits 1 (.readDemand 1 0) [] ∧ (1 : PortId) ≠ supervisor ∧ floor.owner ≠ 1) ∧
    ((asked filed 1 (.nextDemand 1 0)).Awaits 1 (.nextDemand 1 0) [] ∧ filed.record 1 = some cap ∧ cap.owner = 1 ∧
      ∀ j : Handle, 0 ≤ j → j < 1 → ∀ q ∈ filed.record j, (1 : PortId) ≠ supervisor ∧ q.owner ≠ 1) ∧
    ((asked filed 0 (.nextDemand 0 1)).Awaits 0 (.nextDemand 0 1) [] ∧
      ∀ j : Handle, 1 ≤ j → ∀ q ∈ filed.record j, (0 : PortId) ≠ supervisor ∧ q.owner ≠ 0) :=
  ⟨⟨asked_awaits _ _ _, by decide⟩, ⟨asked_awaits _ _ _, by decide⟩, ⟨asked_awaits _ _ _, by decide⟩,
    ⟨asked_awaits _ _ _, by decide⟩, asked_awaits _ _ _, by decide⟩

theorem witness_QuotaIsSetAndRead :
    ((ordered (.setQuota 0 65)).Awaits supervisor (.setQuota 0 65) [] ∧ (65 : Byte).toNat > 64) ∧
    ((asked filed supervisor (.setQuota 0 0)).Awaits supervisor (.setQuota 0 0) [] ∧
      (0 : Byte).toNat < (asked filed supervisor (.setQuota 0 0)).liveCount 0) ∧
    ((asked filed supervisor (.setQuota 0 1)).Awaits supervisor (.setQuota 0 1) [] ∧
      (asked filed supervisor (.setQuota 0 1)).liveCount 0 ≤ (1 : Byte).toNat ∧ (64 : Byte).toNat ≤ 64) ∧
    (ordered (.readPort 8)).Awaits supervisor (.readPort 8) [] :=
  ⟨⟨asked_awaits _ _ _, by decide⟩, ⟨asked_awaits _ _ _, by decide⟩, ⟨asked_awaits _ _ _, by decide⟩,
    asked_awaits _ _ _⟩

theorem witness_OpenAndCloseMoveThePhase :
    ((ordered .openPhase).Awaits supervisor .openPhase [] ∧ running.phase = .run) ∧
    ((asked filed supervisor .closePhase).Awaits supervisor .closePhase [] ∧ filed.phase = .run ∧
      ∃ h r, filed.record h = some r) ∧
    ((ordered .closePhase).Awaits supervisor .closePhase [] ∧ ∀ h, running.record h = none) ∧
    State.reset.phase = .setup :=
  ⟨⟨asked_awaits _ _ _, by decide⟩, ⟨asked_awaits _ _ _, by decide, 0, floor, by decide⟩,
    ⟨asked_awaits _ _ _, by decide⟩, by decide⟩

theorem witness_EvictRetiresByHandleOrPort :
    ((asked filed supervisor (.evictHandleForm (.number 1))).Awaits supervisor (.evictHandleForm (.number 1)) [] ∧
      filed.record 1 = some cap) ∧
    ((asked filed supervisor (.evictHandleForm (.number 2))).Awaits supervisor (.evictHandleForm (.number 2)) [] ∧
      filed.record 2 = none) ∧
    (ordered (.evictHandleForm (.otherForm 2))).Awaits supervisor (.evictHandleForm (.otherForm 2)) [] ∧
    (asked filed supervisor (.evictPortForm 1)).Awaits supervisor (.evictPortForm 1) [] ∧
    (ordered .restartTables).Awaits supervisor .restartTables [] :=
  ⟨⟨asked_awaits _ _ _, by decide⟩, ⟨asked_awaits _ _ _, by decide⟩, asked_awaits _ _ _, asked_awaits _ _ _,
    asked_awaits _ _ _⟩

theorem witness_RestartTablesEmptiesTheTable :
    (asked filed supervisor .restartTables).Awaits supervisor .restartTables [] := asked_awaits _ _ _

theorem witness_PortLossRetiresTheAgentsRecords :
    ((filed.setPort 0 { filed.port 0 with
      sent := [.request (.readDomain 0 1 0) false, .loss, .request (.takeNotice 0) true] }).port
        (Fin.castSucc (0 : AgentId))).sent =
      [.request (.readDomain 0 1 0) false] ++ .loss :: [.request (.takeNotice 0) true] ∧
    Sent.loss ∉ [Sent.request (.readDomain 0 1 0) false] := by decide

theorem witness_LeasesCountDownAndExpire :
    (let s := running.setRecord 63 (some { floor with lease := some { remaining := 1, due := true } });
      s.record 63 = some { floor with lease := some { remaining := 1, due := true } }) ∧
    (∀ r ∈ filed.record 0, ∀ l ∈ r.lease, l.due = false) ∧ (∀ r ∈ filed.record 1, ∀ l ∈ r.lease, l.due = false) := by
  decide

theorem witness_TakeNoticeThreeAnswers :
    (asked running 0 (.takeNotice 0)).Awaits 0 (.takeNotice 0) [] ∧
    ((running.setBox 0 { pending := [.domainHeld 3, .evicted 1 2], lost := true, leaving := [], turns := 0 }).box 0).pending =
      .domainHeld 3 :: [.evicted 1 2] ∧
    ((running.setBox 0 { pending := [], lost := true, leaving := [], turns := 0 }).box 0).lost = true ∧
    (running.box 0).pending = [] ∧ (running.box 0).lost = false :=
  ⟨asked_awaits _ _ _, by decide⟩

theorem witness_NoticesArriveInOrderAndArePlaced :
    takeRaised 0 (.domainHeld 1) [[(8, .railFault 1), (0, .domainHeld 1), (0, .domainHeld 5)]] =
      some [[(8, .railFault 1), (0, .domainHeld 5)]] ∧
    (∀ x ∈ [((8 : PortId), Notice.railFault 1)], x.1 ≠ 0) ∧
    (∀ xs ∈ [[((0 : PortId), Notice.domainHeld 2)]], takeFirst 0 (.domainHeld 1) xs = none) ∧
    Notice.domainHeld 5 ≠ .domainHeld 1 := by decide

theorem witness_TimesAndConsentAreStored :
    (ordered (.setTimes 11 0 1)).Awaits supervisor (.setTimes 11 0 1) [] ∧
    ((ordered (.setTimes 11 1 255)).Awaits supervisor (.setTimes 11 1 255) [] ∧ (1 : Byte) ≠ 0 ∧ (255 : Byte) ≠ 0) ∧
    (ordered (.setConsent 0)).Awaits supervisor (.setConsent 0) [] ∧
    (ordered (.setConsent 255)).Awaits supervisor (.setConsent 255) [] :=
  ⟨asked_awaits _ _ _, ⟨asked_awaits _ _ _, by decide⟩, asked_awaits _ _ _, asked_awaits _ _ _⟩

/-- D0 with no use of L0. -/
def aloft : State :=
  (tuned.setConfig 0 { tuned.config 0 with rest := 3, safe := 3 }).setDomain 0
    { resetDomain with current := 3, target := 3 }

theorem witness_SetPointChecksAndWrites :
    ((ordered (.setPoint 0 3 2 0 0)).Awaits supervisor (.setPoint 0 3 2 0 0) [] ∧ (2 : Byte) ≠ 0 ∧ (2 : Byte) ≠ 1) ∧
    ((ordered (.setPoint 0 0 1 0 0)).Awaits supervisor (.setPoint 0 0 1 0 0) [] ∧ (running.domain 0).current = 0) ∧
    ((asked aloft supervisor (.setPoint 0 0 0 0 0)).Awaits supervisor (.setPoint 0 0 0 0 0) [] ∧
      ¬((aloft.domain 0).current = 0 ∨ (aloft.domain 0).target = 0 ∨ (aloft.domain 0).step = some 0 ∨
        (aloft.config 0).rest = 0 ∨ (aloft.config 0).safe = 0)) ∧
    ((ordered (.setPoint 0 15 1 7 0xFF)).Awaits supervisor (.setPoint 0 15 1 7 0xFF) [] ∧
      ¬((running.domain 0).current = 15 ∨ (running.domain 0).target = 15 ∨ (running.domain 0).step = some 15 ∨
        (running.config 0).rest = 15 ∨ (running.config 0).safe = 15) ∧
      (running.rail (running.railOf 0)).inside 0xFF ∧
      ¬((running.setRail 0 { resetRail with max := 0xFE }).rail 0).inside 0xFF) := by
  refine ⟨⟨asked_awaits _ _ _, by decide⟩, ⟨asked_awaits _ _ _, by decide⟩, ⟨asked_awaits _ _ _, by decide⟩,
    asked_awaits _ _ _, ?_⟩
  unfold Rail.inside
  decide

theorem witness_LevelsAndThrottleAreWritten :
    ((ordered (.setLevels 0 0 0 3 2)).Awaits supervisor (.setLevels 0 0 0 3 2) [] ∧ (2 : Level) < 3) ∧
    ((asked tuned supervisor (.setLevels 0 0 3 0 15)).Awaits supervisor (.setLevels 0 0 3 0 15) [] ∧
      ¬((tuned.point 0 0).valid = false ∨ (tuned.point 0 3).valid = false ∨ (15 : Level) < 0) ∧
      (tuned.rail (tuned.railOf 0)).fallback < tuned.code 0 3 ∧
      tuned.code 0 0 ≤ (tuned.rail (tuned.railOf 0)).fallback) ∧
    ((ordered (.setThrottle 0 3 0)).Awaits supervisor (.setThrottle 0 3 0) [] ∧ (3 : Byte).toNat > 2) ∧
    ((ordered (.setThrottle 0 2 15)).Awaits supervisor (.setThrottle 0 2 15) [] ∧ ((2 : Byte), some ThrottleLine.thr1,
      running.pins.thr1) ∈ [((0 : Byte), none, false), (1, some ThrottleLine.thr0, running.pins.thr0),
        (2, some .thr1, running.pins.thr1)]) :=
  ⟨⟨asked_awaits _ _ _, by decide⟩, ⟨asked_awaits _ _ _, by decide⟩, ⟨asked_awaits _ _ _, by decide⟩,
    asked_awaits _ _ _, by decide⟩

theorem witness_ForceSetsAndClears :
    (ordered (.force 11 (.set 15))).Awaits supervisor (.force 11 (.set 15)) [] ∧
    (ordered (.force 0 .clear)).Awaits supervisor (.force 0 .clear) [] ∧
    (ordered (.force 0 (.other 2))).Awaits supervisor (.force 0 (.other 2)) [] :=
  ⟨asked_awaits _ _ _, asked_awaits _ _ _, asked_awaits _ _ _⟩

/-- The part after reset with another state of rail V1. -/
def withRail (r : Rail) : State := State.reset.setRail 1 r

theorem witness_MapChecksAndMoves :
    (∀ s ∈ [running, State.reset, State.reset.setDomain 0 { resetDomain with target := 1 },
        withRail { resetRail with state := .held }, withRail { resetRail with state := .shutdown },
        withRail { resetRail with max := 0x7F }], (asked s supervisor (.map 0 1)).Awaits supervisor (.map 0 1) []) ∧
    running.phase = .run ∧ State.reset.phase = .setup ∧
    ((State.reset.domain 0).state = .steady ∧ (State.reset.domain 0).current = 0 ∧ (State.reset.domain 0).target = 0) ∧
    ((State.reset.setDomain 0 { resetDomain with target := 1 }).domain 0).target ≠ 0 ∧
    ((withRail { resetRail with state := .held }).rail 1).state = .held ∧
    ((withRail { resetRail with state := .shutdown }).rail 1).state = .shutdown ∧
    ¬((withRail { resetRail with max := 0x7F }).rail 1).inside ((withRail { resetRail with max := 0x7F }).code 0 0) ∧
    (State.reset.rail 1).faulted = false ∧
    ((∀ l, (State.reset.point 0 l).valid = true → (State.reset.rail 1).inside (State.reset.code 0 l)) ∧
      State.reset.code 0 (State.reset.config 0).safe ≤ (State.reset.rail 1).fallback) ∧
    State.reset.code 0 0 ≤ (State.reset.rail 1).confirmed ∧ (State.reset.rail 1).command = .none := by
  refine ⟨fun s _ => asked_awaits _ _ _, ?_⟩
  unfold Rail.inside
  decide

/-- D2 in CONSENT, with its request outstanding for 700 µs more, and D5 behind it. -/
def consulting : State :=
  { (withDomain 2 consenting).setDomain 5 consenting with
    park := { running.park with request := some (2, 700), queue := [5] } }

/-- R108, R114: a force on D2 withdraws its request, and D5 is sent with the consent timeout of 2 ms. -/
theorem test_withdrawal : after (.force 2 (.set 0)) (asked consulting supervisor (.force 2 (.set 0))) (fun t =>
    t.park = { consulting.park with queue := [], request := some (5, 2000), cdom := 5 }) = true := by decide
/-- R111: a deny settles D2, whose target is its current level, and starts its quiet timer with the window of 10 ms. -/
theorem test_deny : after .cdenyRise (consulting.setConfig 2 { consulting.config 2 with park := true }) (fun t =>
    (t.domain 2).state = .steady ∧ (t.domain 2).quietTimer = some 10000) = true := by decide

theorem consulting_moves : consulting.MovesSound := by
  intro e
  by_cases h2 : e = 2
  · subst h2
    exact ⟨test_domains_sound.2.2.1, fun k => absurd rfl k⟩
  by_cases h5 : e = 5
  · subst h5
    exact ⟨test_domains_sound.2.2.1, fun k => absurd rfl k⟩
  have he : consulting.domain e = resetDomain := by
    revert h2 h5 e
    decide
  rw [he]
  exact ⟨resetDomain_moves, fun k => absurd rfl k⟩

theorem consulting_consent : consulting.ConsentSound := by
  unfold State.ConsentSound
  decide

theorem witness_SetParkByState :
    ((ordered (.setPark 0 2 1 0)).Awaits supervisor (.setPark 0 2 1 0) [] ∧ (2 : Byte).toNat > 1) ∧
    ((asked consulting supervisor (.setPark 2 0 1 1)).Awaits supervisor (.setPark 2 0 1 1) [] ∧
      (consulting.domain 2).state = .consent ∧ consulting.ConsentSound) ∧
    ((ordered (.setPark 0 1 255 1)).Awaits supervisor (.setPark 0 1 255 1) [] ∧ (1 : Byte).toNat ≤ 1 ∧
      (255 : Byte) ≠ 0 ∧ ¬((running.domain 0).state = .consent ∧ (1 : Byte) = 0)) :=
  ⟨⟨asked_awaits _ _ _, by decide⟩, ⟨asked_awaits _ _ _, by decide, consulting_consent⟩, asked_awaits _ _ _, by decide⟩

theorem witness_SetRailChecksAndWrites :
    (∀ s ∈ [running, withRail { resetRail with state := .fallback }, withRail { resetRail with state := .shutdown }],
      ∀ min max fallback retention time, (asked s supervisor (.setRail 1 min max fallback retention time)).Awaits
        supervisor (.setRail 1 min max fallback retention time) []) ∧
    ((0 : Byte) < 1 ∧ ¬((0xFF : Byte) < 0 ∨ (1 : Byte) = 0)) ∧
    ((withRail { resetRail with state := .fallback }).rail 1).state = .fallback ∧
    ((withRail { resetRail with state := .shutdown }).rail 1).state = .shutdown ∧
    (running.rail 1).faulted = false ∧ ((0x80 : Byte) < 0x81) ∧
    ¬(∃ d l, running.railOf d = 1 ∧ (running.point d l).valid = true ∧
      (running.code d l < 0x80 ∨ (0x80 : Byte) < running.code d l)) ∧
    ¬(∃ d, running.railOf d = 1 ∧ (0x80 : Byte) < running.code d (running.config d).safe) ∧
    (running.rail 1).command = .none := by
  refine ⟨fun s _ _ _ _ _ _ => asked_awaits _ _ _, ?_⟩
  decide

theorem witness_PageReadsShowTheState :
    (∀ page : Byte, (asked running 0 (.readDomain 0 11 page)).Awaits 0 (.readDomain 0 11 page) [] ∧
      (asked running 0 (.readRail 0 3 page)).Awaits 0 (.readRail 0 3 page) [] ∧
      (asked running 8 (.readPoint 8 11 page)).Awaits 8 (.readPoint 8 11 page) []) ∧
    ((2 : Byte).toNat > 1 ∧ (15 : Byte).toNat = (15 : Level) ∧ (19 : Byte).toNat > 18) ∧
    (running.domain 11).quietTimer = none ∧
    ((withDomain 11 { resetDomain with quietTimer := some 255000 }).domain 11).quietTimer = some 255000 ∧
    255000 ≤ 255000 :=
  ⟨fun _ => ⟨asked_awaits _ _ _, asked_awaits _ _ _, asked_awaits _ _ _⟩, by decide⟩

theorem witness_ResolutionBaseAndSource :
    ((withDomain 0 { resetDomain with force := some 15 }).domain 0).force = some 15 ∧
    (filed.domain 0).force = none ∧
    (∃ h, ∃ r ∈ filed.record h, r.domain = 0 ∧ r.cls = .cap ∧ r.level < (5 : Level)) ∧
    (∀ h, ∀ r ∈ running.record h, r.domain = 0 → r.cls = .cap → (0 : Level) ≤ r.level) :=
  ⟨by decide, by decide, ⟨1, cap, by decide⟩, by decide⟩

/-- D0 resting at L5 and following THR0, asserted, at level 3. -/
def throttled : State :=
  (tuned.setConfig 0 { tuned.config 0 with rest := 5, throttleLine := some .thr0, throttleLevel := 3 }).setDomain 0
    { resetDomain with throttled := true }

theorem witness_ThrottleAndRounding :
    ((throttled.point 0 0).valid = true ∧ (throttled.config 0).throttleLine ≠ none ∧
      (throttled.domain 0).throttled = true ∧ (throttled.config 0).throttleLevel < (throttled.base 0).1 ∧
      (throttled.domain 0).force = none ∧ (throttled.point 0 3).valid = true) ∧
    ((running.point 0 0).valid = true ∧ (running.config 0).throttleLine = none ∧ (running.domain 0).force = none) ∧
    ((withDomain 0 { resetDomain with force := some 4 }).domain 0).force ≠ none ∧
    ((tuned.point 0 4).valid = false ∧ ∃ l, (4 : Level) < l ∧ l ≤ 15 ∧ (tuned.point 0 l).valid = true) ∧
    ((tuned.point 0 6).valid = false ∧ ¬∃ l, (6 : Level) < l ∧ l ≤ 15 ∧ (tuned.point 0 l).valid = true) := by decide

theorem witness_ResolutionActsByState :
    (∀ c ∈ [resetDomain, raising, stepping, consenting, parking, parked, wakingRail, wakingGate, wakingClock, freezing,
      off], (tuned.setDomain 0 c).MovesSound ∧ ((tuned.setDomain 0 c).domain 0).state = c.state) ∧
    ((tuned.setDomain 0 raising).resolution 0).1 ≠ raising.target ∧
    (((tuned.setConfig 0 { tuned.config 0 with rest := 3 }).setDomain 0 raising).resolution 0).1 = raising.target ∧
    filed.wanted 0 = true ∧ running.wanted 0 = false ∧
    (∀ c ∈ [consenting, parked], (filed.setDomain 0 c).MovesSound ∧ (filed.setDomain 0 c).wanted 0 = true) ∧
    ∀ c ∈ [consenting, parked], (running.setDomain 0 c).wanted 0 = false := by
  obtain ⟨h1, h2, h3, h4, h5, h6, h7, h8, h9, -, h11⟩ := test_domains_sound
  refine ⟨fun c hc => ?_, by decide, by decide, by decide, by decide, fun c hc => ⟨?_, ?_⟩, by decide⟩
  on_goal 2 =>
    simp only [List.mem_cons, List.not_mem_nil, or_false] at hc
    rcases hc with rfl | rfl
    · exact moves_of filed filed_domains 0 h3 rfl
    · exact moves_of filed filed_domains 0 h5 rfl
  on_goal 2 =>
    revert c
    decide
  have hs : ((tuned.setDomain 0 c).domain 0).state = c.state := by simp [State.setDomain, State.domain]
  simp only [List.mem_cons, List.not_mem_nil, or_false] at hc
  rcases hc with rfl | rfl | rfl | rfl | rfl | rfl | rfl | rfl | rfl | rfl | rfl
  · exact ⟨moves_of _ tuned_domains _ resetDomain_moves rfl, hs⟩
  · exact ⟨moves_of _ tuned_domains _ h1 rfl, hs⟩
  · exact ⟨moves_of _ tuned_domains _ h2 rfl, hs⟩
  · exact ⟨moves_of _ tuned_domains _ h3 rfl, hs⟩
  · exact ⟨moves_of _ tuned_domains _ h4 rfl, hs⟩
  · exact ⟨moves_of _ tuned_domains _ h5 rfl, hs⟩
  · exact ⟨moves_of _ tuned_domains _ h6 rfl, hs⟩
  · exact ⟨moves_of _ tuned_domains _ h7 rfl, hs⟩
  · exact ⟨moves_of _ tuned_domains _ h8 rfl, hs⟩
  · exact ⟨moves_of _ tuned_domains _ h9 rfl, hs⟩
  · exact ⟨moves_of _ tuned_domains _ h11 rfl, hs⟩

theorem witness_ReportsAndThrottleEdgesResolve :
    (let r : Report := { domain := 0, items := [(0, .created)] };
      let q : Report := { domain := 1, items := [(1, .retired)] };
      ({ running with reports := [q, r, r] } : State).reports = [q] ++ r :: [r] ∧ ∀ x ∈ [q], x.domain ≠ 0) ∧
    (∀ r ∈ running.reports, r.domain ≠ 0) ∧
    throttled.thr .thr0 ≠ true ∧ (throttled.config 0).throttleLine = some .thr0 ∧
    (throttled.config 1).throttleLine ≠ some .thr0 := by decide

theorem witness_StrobesAreDriven :
    (wakingClock.strobe = some (.step 0) ∧ wakingClock.step ≠ none) ∧
    (({ wakingClock with step := none } : Domain).strobe = some (.step 0) ∧
      ({ wakingClock with step := none } : Domain).step = none) ∧
    parking.strobe = some .stop ∧ resetDomain.strobe = none ∧
    (withDomain 11 wakingClock).domain 11 = wakingClock ∧ (withDomain 11 parking).domain 11 = parking := by decide

theorem falling_moves : ∀ c ∈ [heldDomain, freezing], (falling c).MovesSound := by
  intro c hc e
  have he : ∀ c ∈ [heldDomain, freezing], ∀ e, (falling c).domain e =
      if e = 1 then freezing else if e = 5 ∨ e = 9 then c else resetDomain := by decide
  rw [he c hc e]
  have hf : freezing.MovesSound := test_domains_sound.2.2.2.2.2.2.2.2.1
  have hh : heldDomain.MovesSound := by simp [Domain.MovesSound, DomainState.gate, heldDomain, resetDomain]
  have hq : c.quietTimer = none := by revert c; decide
  have hm : c.MovesSound := by
    simp only [List.mem_cons, List.not_mem_nil, or_false] at hc
    rcases hc with rfl | rfl <;> assumption
  split
  · exact ⟨hf, fun k => absurd rfl k⟩
  · split
    · exact ⟨hm, fun k => absurd hq k⟩
    · exact ⟨resetDomain_moves, fun k => absurd rfl k⟩

theorem witness_LockCompletesTheStep :
    ((withDomain 0 stepping).MovesSound ∧ ((withDomain 0 stepping).domain 0).step = some 3 ∧
      ((withDomain 0 stepping).domain 0).strobe = none ∧ ((withDomain 0 stepping).domain 0).state = .stepping) ∧
    ((withDomain 0 freezing).MovesSound ∧ ((withDomain 0 freezing).domain 0).step = some 0 ∧
      ((withDomain 0 freezing).domain 0).strobe = none ∧ ((withDomain 0 freezing).domain 0).state = .frozen) ∧
    ((withDomain 0 wakingClock).MovesSound ∧ ((withDomain 0 wakingClock).domain 0).strobe ≠ none) ∧
    (running.domain 0).step = none ∧
    (∀ c ∈ [heldDomain, freezing], (falling c).MovesSound) ∧
    ∀ c ∈ [heldDomain, freezing], ((falling c).domain 1).step = some 0 ∧ ((falling c).domain 1).strobe = none ∧
      ((falling c).domain 1).state = .frozen ∧ ((falling c).rail ((falling c).railOf 1)).state = .fallback ∧
      ((falling c).rail ((falling c).railOf 1)).command = .none :=
  ⟨⟨moves_of _ running_domains _ test_domains_sound.2.1 rfl, by decide⟩,
    ⟨moves_of _ running_domains _ test_domains_sound.2.2.2.2.2.2.2.2.1 rfl, by decide⟩,
    ⟨moves_of _ running_domains _ test_domains_sound.2.2.2.2.2.2.2.1 rfl, by decide⟩, by decide, falling_moves,
    by decide⟩

theorem witness_LockTimeoutsGateTheDomain :
    (((withDomain 0 stepping).domain 0).lockTimer ≠ none ∧ ((withDomain 0 stepping).domain 0).state = .stepping) ∧
    (((withDomain 0 freezing).domain 0).lockTimer ≠ none ∧ ((withDomain 0 freezing).domain 0).state = .frozen ∧
      ((withDomain 0 freezing).domain 0).step ≠ none) ∧
    ∀ c ∈ [heldDomain, freezing], ((falling c).domain 1).lockTimer ≠ none ∧ ((falling c).domain 1).state = .frozen ∧
      ((falling c).domain 1).step ≠ none ∧ ((falling c).rail ((falling c).railOf 1)).state = .fallback ∧
      ((falling c).rail ((falling c).railOf 1)).command = .none := by decide

/-- D0 in RAISING toward L3, its rail now confirmed at the code of L3. -/
def risen : State :=
  (tuned.setDomain 0 raising).setRail 0 { resetRail with confirmed := 0x90, required := 0x90 }

/-- D0 in RAISING toward L3 with news, its rail not there yet. -/
def rising : State :=
  (tuned.setDomain 0 raising).setRail 0
    { resetRail with required := 0x90, command := .queued 0x90, state := .raising }

theorem witness_AssuredCodeReleasesTheWaiting :
    (risen.MovesSound ∧ risen.NeedsSound ∧ (risen.domain 0).assuredNews = true ∧ (risen.domain 0).state = .raising ∧
      risen.code 0 (risen.domain 0).target ≤ risen.assured (risen.railOf 0)) ∧
    (rising.MovesSound ∧ rising.NeedsSound ∧ (rising.domain 0).assuredNews = true ∧
      ¬((rising.domain 0).state = .raising ∧ rising.code 0 (rising.domain 0).target ≤ rising.assured (rising.railOf 0)) ∧
      (rising.domain 0).state ≠ .waking .rail) ∧
    ((withDomain 0 wakingRail).MovesSound ∧ (withDomain 0 wakingRail).NeedsSound ∧
      ((withDomain 0 wakingRail).domain 0).assuredNews = true ∧
      ((withDomain 0 wakingRail).domain 0).state = .waking .rail) := by
  refine ⟨⟨fun e => moves_of tuned tuned_domains 0 test_domains_sound.1 rfl e, ?_⟩,
    ⟨fun e => moves_of tuned tuned_domains 0 test_domains_sound.1 rfl e, ?_⟩,
    ⟨moves_of _ running_domains _ test_domains_sound.2.2.2.2.2.1 rfl, ?_⟩⟩ <;> unfold State.NeedsSound <;> decide

/-- D0 settled, with park enabled and its quiet window run out. -/
def quietNow : State :=
  (running.setConfig 0 { running.config 0 with park := true }).setDomain 0 { resetDomain with quietTimer := some 0 }

theorem quietNow_moves : quietNow.MovesSound := by
  intro e
  by_cases h : e = 0
  · subst h
    refine ⟨?_, fun _ => by decide⟩
    have he : quietNow.domain 0 = { resetDomain with quietTimer := some 0 } := by decide
    rw [he]
    simp [Domain.MovesSound, resetDomain, DomainState.gate]
  · have he : quietNow.domain e = resetDomain := by
      revert h e
      decide
    rw [he]
    exact ⟨resetDomain_moves, fun k => absurd rfl k⟩

theorem witness_QuietExpiryAsksForConsent :
    quietNow.MovesSound ∧ quietNow.ConsentSound ∧ (quietNow.domain 0).quietTimer ≠ none ∧
    (quietNow.park.request = none ∧ quietNow.pins.cgrant = false ∧ quietNow.pins.cdeny = false ∧
      quietNow.park.queue = []) ∧
    (let s : State := { quietNow with pins := { quietNow.pins with cdeny := true } };
      s.MovesSound ∧ s.ConsentSound ∧ (s.domain 0).quietTimer ≠ none ∧ s.pins.cdeny = true) := by
  refine ⟨quietNow_moves, ?_, ?_, ?_, fun e => quietNow_moves e, ?_⟩ <;>
    first | decide | (unfold State.ConsentSound; decide)

theorem witness_ConsentIsDecided :
    consulting.MovesSound ∧ consulting.ConsentSound ∧ consulting.park.request = some (2, 700) ∧
    consulting.pins.cgrant = false ∧ consulting.pins.cdeny = false ∧ (consulting.config 2).policy = .stay ∧
    consulting.park.queue = 5 :: [] ∧
    (let s := consulting.setConfig 2 { consulting.config 2 with policy := .park };
      s.MovesSound ∧ s.ConsentSound ∧ s.park.request = some (2, 700) ∧ (s.config 2).policy = .park) := by
  refine ⟨consulting_moves, consulting_consent, ?_, ?_, ?_, ?_, ?_, fun e => ?_, consulting_consent, ?_⟩
  all_goals first | decide | skip
  refine ⟨(consulting_moves e).1, fun k => absurd ?_ k⟩
  revert e
  decide

theorem witness_AnswerLinesHoldTheChannel :
    (running.park.request = none ∧ running.pins.cgrant = false ∧ running.pins.cdeny = false) ∧
    (let s : State := { quietNow with
        pins := { quietNow.pins with cgrant := true }, park := { quietNow.park with queue := [3, 1] } };
      (AnswerLine.cgrant = .cgrant → s.pins.cgrant = true) ∧ (AnswerLine.cgrant = .cdeny → s.pins.cdeny = true) ∧
      s.park.request = none ∧ ({ s.pins with cgrant := false } : Pins).cgrant = false ∧
      ({ s.pins with cgrant := false } : Pins).cdeny = false ∧ s.park.queue = 3 :: [1]) ∧
    (let s : State := { consulting with pins := { quietNow.pins with cdeny := true } };
      (AnswerLine.cdeny = .cdeny → s.pins.cdeny = true) ∧ s.park.request ≠ none) := by decide

theorem witness_GateSettleExpiryParksOrWakes :
    ((withDomain 0 parking).MovesSound ∧ ((withDomain 0 parking).domain 0).gateTimer ≠ none ∧
      ((withDomain 0 parking).domain 0).state = .parking ∧ (withDomain 0 parking).wanted 0 = false ∧
      (withDomain 0 { parking with force := some 1 }).wanted 0 = true) ∧
    ((withDomain 0 wakingGate).MovesSound ∧ ((withDomain 0 wakingGate).domain 0).state = .waking .gate ∧
      (withDomain 0 wakingGate).code 0 ((withDomain 0 wakingGate).domain 0).target ≤
        (withDomain 0 wakingGate).assured ((withDomain 0 wakingGate).railOf 0)) ∧
    (let s := tuned.setDomain 0 { wakingGate with target := 3 };
      s.MovesSound ∧ (s.domain 0).gateTimer ≠ none ∧ s.assured (s.railOf 0) < s.code 0 (s.domain 0).target) := by
  refine ⟨⟨moves_of _ running_domains _ test_domains_sound.2.2.2.1 rfl, by decide⟩,
    ⟨moves_of _ running_domains _ test_domains_sound.2.2.2.2.2.2.1 rfl, by decide⟩,
    moves_of _ tuned_domains _ ?_ rfl, by decide⟩
  simp [Domain.MovesSound, DomainState.gate, wakingGate, resetDomain]

theorem witness_RequiredCodeOfARail :
    (let s := ((running.setDomain 0 parked).setDomain 4 parked).setDomain 8 parked;
      ∀ d, s.railOf d = 0 → (s.domain d).state = .parked) ∧
    (let s := ((running.setDomain 0 parked).setDomain 4 parked).setDomain 8 parking;
      (∃ d, s.railOf d = 0 ∧ (s.domain d).state ≠ .parked) ∧ ∀ d, s.railOf d = 0 → (s.domain d).need = none) ∧
    ((∃ d, rising.railOf d = 0 ∧ (rising.domain d).state ≠ .parked) ∧ rising.railOf 0 = 0 ∧
      (rising.domain 0).need = some 0x90 ∧
      (∀ e, rising.railOf e = 0 → ∀ n ∈ (rising.domain e).need, n ≤ 0x90) ∧ (rising.rail 0).min ≤ (rising.rail 0).max) := by
  decide

theorem witness_CommandRuleAndRailState :
    ((withRail { resetRail with state := .held }).rail 1).faulted = true ∧
    (((withRail { resetRail with command := .outstanding 0x90 .two (.settling 1) }).rail 1).faulted = false ∧
      ((withRail { resetRail with command := .outstanding 0x90 .two (.settling 1) }).rail 1).command =
        .outstanding 0x90 .two (.settling 1)) ∧
    ((running.rail 1).command = .none ∧ running.requiredCode 1 = (running.rail 1).confirmed) ∧
    ((rising.rail 0).command = .queued 0x90 ∧ rising.requiredCode 0 ≠ (rising.rail 0).confirmed) := by decide

/-- The link is free, V0 and V3 wait, and V0 is chosen. -/
def serving : State :=
  let s := (running.setRail 0 { resetRail with command := .queued 0x70 }).setRail 3
    { resetRail with command := .queued 0x90 }
  { s with link := { s.link with resetHold := none, elected := some 0 } }

theorem witness_LinkServesTheRotation :
    (let s : State := { serving with link := { serving.link with elected := none } };
      s.link.elected = none ∧ s.linkBusy = false ∧ s.waiting 3 = true) ∧
    (State.reset.link.elected = none ∧ State.reset.link.resetHold ≠ none) ∧
    (serving.linkBusy = false ∧ serving.link.elected = some 0 ∧ (serving.rail 0).command = .queued 0x70) := by decide

/-- A try of V1 is on the link: a raise to 90h or a lower to 70h. -/
def onLink (code : Byte) (tries : Try) (disregarded : Bool) : State :=
  let s := running.setRail 1 { resetRail with command := .outstanding code tries .awaitingReply }
  { s with link := { s.link with
    resetHold := none, bit := true, replyTimer := some 0
    transfer := some { rail := 1, code := code, tries := tries, bit := true, disregarded := disregarded } } }

theorem witness_RepliesAndTimeoutsEndATry :
    (running.link.transfer = none ∧ (0x5D : Byte).toNat / 16 ≠ 10 ∧
      ((onLink 0x90 .one false).link.transfer ≠ none ∧ (0xA9 : Byte).getLsbD 2 ≠ true)) ∧
    (∀ code ∈ [(0x90 : Byte), 0x70, 0x80], ∀ tries ∈ [Try.one, .two], ∀ x ∈ [true, false],
      (onLink code tries x).link.transfer =
        some { rail := 1, code := code, tries := tries, bit := true, disregarded := x } ∧
      (onLink code tries x).link.replyTimer ≠ none ∧
      ((onLink code tries x).rail 1).command = .outstanding code tries .awaitingReply) ∧
    ((0xAD : Byte).toNat / 16 = 10 ∧ (0xAD : Byte).toNat % 4 = (1 : RailId) ∧ (0xAD : Byte).getLsbD 2 = true ∧
      (0xAD : Byte).getLsbD 3 = true ∧ (0xA5 : Byte).toNat / 16 = 10 ∧ (0xA5 : Byte).toNat % 4 = (1 : RailId) ∧
      (0xA5 : Byte).getLsbD 2 = true ∧ (0xA5 : Byte).getLsbD 3 = false) ∧
    (((onLink 0x90 .one false).rail 1).confirmed < 0x90 ∧
      (onLink 0x90 .one false).assured 1 = ((onLink 0x90 .one false).rail 1).confirmed) ∧
    (0x80 : Byte) ≤ ((onLink 0x80 .one false).rail 1).confirmed := by decide

theorem witness_PgDecidesAtDeadlinesAndFalls :
    (let s := withRail { resetRail with command := .outstanding 0x90 .one (.settling 0) };
      (s.rail 1).command = .outstanding 0x90 .one (.settling 0) ∧ (s.rail 1).faulted = false) ∧
    ((withRail { resetRail with
      state := .fallback, command := .outstanding 0x90 .one (.settling 0) }).rail 1).state = .fallback ∧
    ((running.rail 1).faulted = false ∧ (running.rail 1).command = .none) ∧
    ((withRail { resetRail with state := .shutdown }).rail 1).state = .shutdown ∧
    (((withRail { resetRail with state := .held }).rail 1).state = .held ∧
      ((withRail { resetRail with state := .held }).rail 1).command = .none) := by decide

theorem running_none : ∀ v, (running.rail v).command = .none := by decide

/-- The part in RUN right after reset agrees with itself. -/
theorem running_sound : running.Sound where
  tables := by unfold State.TablesSound; decide
  windows := by unfold State.WindowsSound Rail.inside; decide
  moves := fun e => by
    rw [running_domains e]
    exact ⟨resetDomain_moves, fun k => absurd rfl k⟩
  parked := by unfold State.ParkedSound; decide
  faults := by unfold State.FaultsSound; decide
  consent := by unfold State.ConsentSound; decide
  link := by
    refine ⟨by decide, by decide, by decide, fun v code tries h => ?_, by decide, by decide⟩
    rw [running_none v] at h
    cases h
  needs := by unfold State.NeedsSound; decide
  rails := by
    intro v _
    refine ⟨fun _ => ?_, fun code h => ?_, fun code tries phase h => ?_, ?_⟩
    · revert v; decide
    · rw [running_none v] at h; cases h
    · rw [running_none v] at h; cases h
    · revert v; decide
  commands := by unfold State.CommandsInside Rail.inside; decide
  assured := by unfold State.AssuredCovers; decide
  covered := by unfold State.Covered; decide

/-- V1 in HELD with its domains D1, D5 and D9 frozen in place. -/
def helding : State :=
  (((running.setRail 1 { resetRail with state := .held, cause := .nak }).setDomain 1 heldDomain).setDomain 5
    heldDomain).setDomain 9 heldDomain

theorem helding_none : ∀ v, (helding.rail v).command = .none := by decide

theorem helding_sound : helding.Sound where
  tables := by unfold State.TablesSound; decide
  windows := by unfold State.WindowsSound Rail.inside; decide
  moves := fun e => by
    have he : helding.domain e = if e = 1 ∨ e = 5 ∨ e = 9 then heldDomain else resetDomain := by
      revert e
      decide
    rw [he]
    split
    · exact ⟨by simp [Domain.MovesSound, DomainState.gate, heldDomain, resetDomain], fun k => absurd rfl k⟩
    · exact ⟨resetDomain_moves, fun k => absurd rfl k⟩
  parked := by unfold State.ParkedSound; decide
  faults := by unfold State.FaultsSound; decide
  consent := by unfold State.ConsentSound; decide
  link := by
    refine ⟨by decide, by decide, by decide, fun v code tries h => ?_, by decide, by decide⟩
    rw [helding_none v] at h
    cases h
  needs := by unfold State.NeedsSound; decide
  rails := by
    intro v hv
    refine ⟨fun _ => ?_, fun code h => ?_, fun code tries phase h => ?_, ?_⟩
    · revert v; decide
    · rw [helding_none v] at h; cases h
    · rw [helding_none v] at h; cases h
    · revert v; decide
  commands := by unfold State.CommandsInside Rail.inside; decide
  assured := by unfold State.AssuredCovers; decide
  covered := by unfold State.Covered; decide

theorem sound_asked {s : State} (h : s.Sound) (p : PortId) (i : Instr) : (asked s p i).Sound :=
  ⟨h.tables, h.windows, h.moves, h.parked, h.faults, h.consent, h.link, h.needs, h.rails, h.commands, h.assured,
    h.covered⟩

theorem witness_FallbackFreezesTheRail : running.Sound ∧ (running.rail 0).faulted = false :=
  ⟨running_sound, by decide⟩

theorem witness_ShutdownSwitchesTheRailOff :
    ((withRail { resetRail with state := .fallback }).rail 1).state = .fallback ∧
    (running.rail 1).faulted = false := by decide

theorem witness_ClearFaultRailFormReleases :
    (ordered (.clearFaultRailForm (.otherForm 2))).Awaits supervisor (.clearFaultRailForm (.otherForm 2)) [] ∧
    (asked helding supervisor (.clearFaultRailForm (.number 1))).Awaits supervisor
      (.clearFaultRailForm (.number 1)) [] ∧
    (asked helding supervisor (.clearFaultRailForm (.number 1))).Sound ∧
    ((asked helding supervisor (.clearFaultRailForm (.number 1))).rail 1).state = .held ∧
    ((asked helding supervisor (.clearFaultRailForm (.number 0))).rail 0).faulted = false ∧
    ((withRail { resetRail with state := .fallback }).rail 1).state = .fallback ∧
    ((withRail { resetRail with state := .shutdown }).rail 1).state = .shutdown :=
  ⟨asked_awaits _ _ _, asked_awaits _ _ _, sound_asked helding_sound _ _, by decide⟩

theorem witness_ClearFaultDomainFormReleases :
    (let s := asked (withDomain 3 clockFault) supervisor (.clearFaultDomainForm 3);
      s.MovesSound ∧ s.Awaits supervisor (.clearFaultDomainForm 3) [] ∧ (s.domain 3).state = .frozen ∧
        (s.domain 3).cause = .clock ∧ (s.rail (s.railOf 3)).faulted = false) ∧
    (let s := asked (withDomain 3 off) supervisor (.clearFaultDomainForm 3);
      s.MovesSound ∧ s.Awaits supervisor (.clearFaultDomainForm 3) [] ∧ (s.domain 3).state = .off) ∧
    (let s := asked running supervisor (.clearFaultDomainForm 3);
      s.MovesSound ∧ s.Awaits supervisor (.clearFaultDomainForm 3) [] ∧ (s.domain 3).state ≠ .off ∧
        ¬((s.domain 3).state = .frozen ∧ (s.domain 3).cause = .clock)) :=
  ⟨⟨moves_of _ running_domains _ test_domains_sound.2.2.2.2.2.2.2.2.2.1 rfl, asked_awaits _ _ _, by decide⟩,
    ⟨moves_of _ running_domains _ test_domains_sound.2.2.2.2.2.2.2.2.2.2 rfl, asked_awaits _ _ _, by decide⟩,
    ⟨running_sound.moves, asked_awaits _ _ _, by decide⟩⟩

theorem witness_StepKeepsTheCoveringRelation : running.Sound ∧ ∃ t, step running = .next t :=
  ⟨running_sound, running.tick, rfl⟩

theorem witness_StepKeepsTheDemandTable :
    (∃ t, step filed = .next t) ∧ filed.KeysUnique ∧ filed.SetupEmpty ∧ filed.QuotasKept ∧ filed.LeasesShown ∧
    filed.GenerationsSound ∧ filed.Sound ∧ filed.StatusesSound := by
  refine ⟨⟨filed.tick, rfl⟩, ?_, ?_, ?_, ?_, ?_, ⟨running_sound.tables, running_sound.windows, running_sound.moves, ?_,
    running_sound.faults, running_sound.consent, running_sound.link, running_sound.needs, running_sound.rails,
    running_sound.commands, running_sound.assured, running_sound.covered⟩, ?_⟩
  · unfold State.KeysUnique; decide
  · unfold State.SetupEmpty; decide
  · unfold State.QuotasKept; decide
  · unfold State.LeasesShown; decide
  · unfold State.GenerationsSound; decide
  · unfold State.ParkedSound; decide
  · unfold State.StatusesSound; decide

theorem witness_StepKeepsPendingSets :
    (let s := running.setBox 0 { pending := [.inForce 1 2 3 4, .clamped 2 2 3 4], lost := true, leaving := [1], turns := 0 };
      s.BoxesSound ∧ ∃ t, step s = .next t) := by
  refine ⟨?_, _, rfl⟩
  unfold State.BoxesSound Box.Sound
  decide

end Sys2Proof.Tests
end

section
/-! PROOFS. The requests of the demand table on live records, quotas and the phase: how their block carries them out,
and with that the statements on FILE of a live key, RENEW, RELEASE, SET-QUOTA, READ-PORT, OPEN and CLOSE. -/

namespace Sys2Proof.Machine

/-! ### The rows of these requests -/

theorem exec_file (p : PortId) (d : DomainId) (cls : DemandClass) (level : Level) (lease : BitVec 16) (tag : Byte)
    (s : State) : exec (.file p d cls level lease tag) s = execFile p d cls level lease tag s := rfl

theorem exec_renew (p : PortId) (h : Handle) (lease : BitVec 16) (s : State) :
    exec (.renew p h lease) s = execRenew p h lease s := rfl

theorem exec_release (p : PortId) (h : Handle) (s : State) : exec (.release p h) s = execRelease p h s := rfl

theorem exec_setQuota (p : PortId) (quota : Byte) (s : State) :
    exec (.setQuota p quota) s = execSetQuota p quota s := rfl

theorem exec_readPort (p : PortId) (s : State) : exec (.readPort p) s = execReadPort p s := rfl

theorem exec_openPhase (s : State) : exec .openPhase s = execOpenPhase s := rfl

theorem exec_closePhase (s : State) : exec .closePhase s = execClosePhase s := rfl

/-! ### Answers -/

variable {s : State} {p : PortId}

/-- A refused request leaves the state as it was but for the answer in its port. -/
theorem State.serve_refused {i : Instr} {rest : List Sent} (hs : s.Awaits p i rest) (body : State → State × Reply)
    (code : StatusCode)
    (hbody : body (s.setPort p { s.port p with sent := rest }) =
      (s.setPort p { s.port p with sent := rest }, .refuse code)) :
    s.serve p i body = s.answered p rest (refusal code.toByte i.commandCode) :=
  State.serve_answered hs body s (.refuse code) hbody rfl

/-- The presence of a port does not depend on the requests on their way. -/
theorem State.setPort_sent_present (s : State) (p o : PortId) (rest : List Sent) :
    ((s.setPort p { s.port p with sent := rest }).port o).present = (s.port o).present := by
  rw [State.setPort_port]
  split
  · next h => rw [h]
  · rfl

/-! ### FILE of a live key (R10, R12) -/

theorem State.startStatus_eq (s : State) (d : DomainId) :
    s.startStatus d = if (s.domain d).state = .frozen ∨ (s.domain d).state = .off then .held else .pending := by
  simp [State.startStatus]

/-- With a live record of its key, FILE in RUN is a replacement, whatever the quota and the room in the table. -/
theorem State.fileRequest_replaces {h : Handle} {r : Record} (hrun : s.phase = .run) (hk : s.KeysUnique)
    (hr : s.record h = some r) (level : Level) (lease : BitVec 16) (tag : Byte) :
    s.fileRequest r.owner r.domain r.cls level lease tag =
      (((s.setRecord h (some (r.replaced level lease tag (s.startStatus r.domain)))).dropStanding r.owner h).report
        r.domain h .replaced, .ok (byte h) (nextGeneration r.generation) 0 0 0 0) := by
  simp [State.fileRequest, hrun, State.findKey_eq_some hk hr, Record.replaced]

/-! ### Requests on the requester's own record (R14, R15) -/

section OwnRecord
variable {i : Instr} {rest : List Sent} (hs : s.Awaits p i rest) {h : Handle}
  (body : State → Record → State × Reply)
include hs

/-- The owner's request is carried out on its record. -/
theorem State.serve_ownRecord {r : Record} (hr : s.record h = some r) (ho : r.owner = p) (u : State) (reply : Reply)
    (hbody : body (s.setPort p { s.port p with sent := rest }) r =
      (u.setPort p { s.port p with sent := rest }, reply))
    (hport : u.port p = s.port p) :
    s.serve p i (fun t => t.onOwnRecord p h (body t)) = u.answered p rest (reply.frame i.commandCode) s :=
  State.serve_answered hs _ u reply (by simp [State.onOwnRecord, hr, ho, hbody]) hport

theorem State.serve_ownRecord_noHandle (hr : s.record h = none) :
    s.serve p i (fun t => t.onOwnRecord p h (body t)) = s.answered p rest (refusal 0x20 i.commandCode) :=
  State.serve_refused hs _ .noHandle (by simp [State.onOwnRecord, hr])

theorem State.serve_ownRecord_notOwner {r : Record} (hr : s.record h = some r) (ho : r.owner ≠ p) :
    s.serve p i (fun t => t.onOwnRecord p h (body t)) = s.answered p rest (refusal 0x21 i.commandCode) :=
  State.serve_refused hs _ .notOwner (by simp [State.onOwnRecord, hr, ho])

end OwnRecord

end Sys2Proof.Machine

/-! ### The statements -/

namespace Sys2Proof.DemandTable

open Sys2Proof.Machine

/-- Settles O12: FILE finds the record by its key, which no other live record shares. -/
theorem fileReplacesARecord : Obligations.FileReplacesARecord := by
  intro s p d cls level lease tag rest h r hs hrun hk hr hp hd hc
  subst hp hd hc
  rw [exec_file, execFile, State.serve_answered hs _
    (((s.setRecord h (some (r.replaced level lease tag (s.startStatus r.domain)))).dropStanding r.owner h).report
      r.domain h .replaced) (.ok (byte h) (nextGeneration r.generation) 0 0 0 0)
    (State.fileRequest_replaces (s := s.setPort _ _) hrun hk hr level lease tag) rfl, State.startStatus_eq]
  rfl

/-- Settles O14, by the three things a handle can name: the requester's record, none, or another port's. -/
theorem renewAndRelease : Obligations.RenewAndRelease := by
  constructor
  · intro s p h lease rest hs
    simp only [exec_renew, execRenew, Host.Outcome.next.injEq]
    refine ⟨?_, State.serve_ownRecord_noHandle hs _, fun r => State.serve_ownRecord_notOwner hs _⟩
    intro r hr ho
    exact State.serve_ownRecord hs _ hr ho (s.setRecord h (some { r with lease := leaseOf lease }))
      (.ok r.tag r.generation 0 0 0 0) rfl rfl
  · intro s p h rest hs
    simp only [exec_release, execRelease, Host.Outcome.next.injEq]
    refine ⟨?_, State.serve_ownRecord_noHandle hs _, fun r => State.serve_ownRecord_notOwner hs _⟩
    intro r hr ho
    have hretire := State.retire_eq hr
    rw [State.serve_ownRecord hs _ hr ho ((s.retire h).report r.domain h .retired) (.ok r.tag r.generation 0 0 0 0)
      (by rw [State.setPort_retire, State.setPort_report]) (by rw [hretire]; rfl), hretire, ho]
    rfl

/-- Settles O16, by the two checks of SET-QUOTA in their order. -/
theorem quotaIsSetAndRead : Obligations.QuotaIsSetAndRead := by
  intro s p quota rest
  constructor
  · intro hs
    simp only [exec_setQuota, execSetQuota]
    refine ⟨fun hhigh => ?above, fun hlow hlive => ?below, fun hlow hlive => ?stored⟩
    case above => rw [State.serve_refused hs _ .badArgument (if_pos hhigh)]; rfl
    case below =>
      rw [State.serve_refused hs _ .quotaInUse ((if_neg (Nat.not_lt.2 hlow)).trans (if_pos hlive))]
      rfl
    case stored =>
      rw [State.serve_answered hs _ (s.setQuota p quota.toNat) (.ok (byte (s.liveCount p)) 0 0 0 0 0)
        ((if_neg (Nat.not_lt.2 hlow)).trans (if_neg (Nat.not_lt.2 hlive))) rfl]
      rfl
  · intro hs
    rw [exec_readPort, execReadPort, State.serve_answered hs _ s
      (.ok (byte (s.liveCount p)) (byte (s.quota p)) (bit (s.port p).present) (byte (s.box p).pending.length) 0 0)
      (by rw [State.setPort_sent_present]; rfl) rfl]
    rfl

/-- Settles O17: CLOSE is refused exactly where the phase is RUN and the list of live records is not empty. -/
theorem openAndCloseMoveThePhase : Obligations.OpenAndCloseMoveThePhase := by
  constructor
  · intro s rest hs
    rw [exec_openPhase, execOpenPhase, State.serve_answered hs _ { s with phase := .run } .done rfl rfl]
    exact ⟨rfl, fun hrun => by rw [← hrun]⟩
  · intro s rest hs
    simp only [exec_closePhase, execClosePhase]
    refine ⟨fun hrun ⟨h, r, hr⟩ => ?live, fun hfree => ?free⟩
    case live =>
      have hlive : s.live ≠ [] := List.ne_nil_of_mem (State.mem_live (x := (h, r)).2 hr)
      rw [State.serve_refused hs _ .stillLive (if_pos ⟨hrun, hlive⟩)]
      rfl
    case free =>
      have hclose : ¬(s.phase = .run ∧ s.live ≠ []) := by
        rintro ⟨hrun, hlive⟩
        rcases hfree with hsetup | hnone
        · rw [hrun] at hsetup; cases hsetup
        · exact hlive (State.live_eq_nil.2 hnone)
      rw [State.serve_answered hs _ { s with phase := .setup } .done (if_neg hclose) rfl]
      rfl

end Sys2Proof.DemandTable
end

section
/-! PROOFS. The steps of resolution case by case and the notices of an evaluation, and with that the statements on
the base of resolution, on the throttle and the rounding to a valid entry, and on evaluations. -/

namespace Sys2Proof.Machine

/-! ### Steps 2a and 2b (R28, R29) -/

/-- Step 2a gives the highest of the rest level and the FLOORs, and names a FLOOR as its source only where one is above
the rest level. -/
theorem floorStep_spec (rest : Level) (floors : List Level) :
    rest ≤ (floorStep rest floors).1 ∧ (∀ l ∈ floors, l ≤ (floorStep rest floors).1) ∧
      ((floorStep rest floors).1 = rest ∨ (floorStep rest floors).1 ∈ floors) ∧
      (floorStep rest floors).2 = if rest < (floorStep rest floors).1 then .demand else .rest := by
  obtain ⟨hrest, hfloors⟩ := le_highest.1 (le_refl (highest rest floors))
  by_cases habove : rest < highest rest floors
  · rw [floorStep, if_pos habove]
    exact ⟨hrest, hfloors, highest_mem rest floors, (if_pos habove).symm⟩
  · rw [floorStep, if_neg habove]
    exact ⟨le_rfl, fun l hl => (hfloors l hl).trans (not_lt.1 habove), Or.inl rfl, (if_neg (lt_irrefl rest)).symm⟩

/-- CAPs that are all at or above the base leave it as it is. -/
theorem capStep_of_forall_le {caps : List Level} {b : Level × Governing} (h : ∀ l ∈ caps, b.1 ≤ l) :
    capStep caps b = b :=
  if_neg (not_lt.2 (lowest_le.2 ⟨le_rfl, h⟩))

/-- A CAP below the base makes the lowest level of a CAP the base. -/
theorem capStep_of_exists_lt {caps : List Level} {b : Level × Governing} (h : ∃ l ∈ caps, l < b.1) :
    (capStep caps b).1 ∈ caps ∧ (∀ l ∈ caps, (capStep caps b).1 ≤ l) ∧ (capStep caps b).2 = .cap := by
  obtain ⟨l, hl, hlt⟩ := h
  have hle := (lowest_le.1 (le_refl (lowest b.1 caps))).2
  have hlow : lowest b.1 caps < b.1 := (hle l hl).trans_lt hlt
  rw [capStep, if_pos hlow]
  exact ⟨(lowest_mem b.1 caps).resolve_left hlow.ne, hle, rfl⟩

/-! ### Steps 3 and 4 (R31, R32) -/

theorem throttleStep_of_lt {level : Level} {b : Level × Governing} (h : level < b.1) :
    throttleStep true level b = (level, .throttle) := by
  simp [throttleStep, h]

/-- A line that is not asserted, or a base at or below the throttle level, leaves the base as it is. -/
theorem throttleStep_of_not_lower {asserted : Bool} {level : Level} {b : Level × Governing}
    (h : ¬asserted = true ∨ b.1 ≤ level) : throttleStep asserted level b = b :=
  if_neg fun hlower => by
    rw [Bool.and_eq_true, decide_eq_true_eq] at hlower
    exact h.elim (fun hn => hn hlower.1) hlower.2.not_ge

section Rounding
variable {valid : Level → Bool} {ceiling result : Level}

theorem validStep_of_valid (hr : valid result = true) : validStep valid ceiling result = result := if_pos hr

variable (h0 : valid 0 = true) (hr : valid result = false)
include h0 hr

/-- With a valid entry above the result within the ceiling, rounding gives the lowest valid entry above the result. -/
theorem validStep_up (hup : ∃ l, result < l ∧ l ≤ ceiling ∧ valid l = true) :
    result < validStep valid ceiling result ∧ validStep valid ceiling result ≤ ceiling ∧
      ∀ l, result < l → valid l = true → validStep valid ceiling result ≤ l := by
  obtain ⟨-, ⟨hvalid, -⟩ | ⟨-, habove⟩ | ⟨-, hnone, -⟩⟩ := validStep_cases valid ceiling result h0
  · rw [hr] at hvalid; cases hvalid
  · exact habove
  · exact absurd hup hnone

/-- Without one, it gives the highest valid entry below the result. -/
theorem validStep_down (hnone : ¬∃ l, result < l ∧ l ≤ ceiling ∧ valid l = true) :
    validStep valid ceiling result < result ∧ ∀ l, l < result → valid l = true → l ≤ validStep valid ceiling result := by
  obtain ⟨htarget, ⟨hvalid, -⟩ | ⟨-, hlt, hle, -⟩ | ⟨-, -, hbelow⟩⟩ := validStep_cases valid ceiling result h0
  · rw [hr] at hvalid; cases hvalid
  · exact absurd ⟨_, hlt, hle, htarget⟩ hnone
  · exact hbelow

end Rounding

/-- Rounding stays within every bound that the result and the ceiling keep. -/
theorem validStep_le {valid : Level → Bool} {ceiling result bound : Level} (h0 : valid 0 = true)
    (hresult : result ≤ bound) (hceiling : ceiling ≤ bound) : validStep valid ceiling result ≤ bound := by
  obtain ⟨-, ⟨-, heq⟩ | ⟨-, -, hle, -⟩ | ⟨-, -, hlt, -⟩⟩ := validStep_cases valid ceiling result h0
  · exact heq.le.trans hresult
  · exact hle.trans hceiling
  · exact hlt.le.trans hresult

/-! ### The inputs of the steps -/

variable {s : State} {d : DomainId}

/-- What holds of every level of a class on a domain holds of the level of every such record. -/
theorem State.forall_mem_levelsOn {cls : DemandClass} {P : Level → Prop} :
    (∀ l ∈ s.levelsOn d cls, P l) ↔ ∀ h, ∀ r ∈ s.record h, r.domain = d → r.cls = cls → P r.level := by
  simp only [State.mem_levelsOn]
  constructor
  · intro hall h r hr hd hc
    exact hall r.level ⟨h, r, hr, hd, hc, rfl⟩
  · rintro hall l ⟨h, r, hr, hd, hc, rfl⟩
    exact hall h r hr hd hc

theorem State.base_of_force {l : Level} (h : (s.domain d).force = some l) : s.base d = (l, .force) := by
  simp [State.base, h]

theorem State.base_of_no_force (h : (s.domain d).force = none) :
    s.base d = limitStep (s.config d).floorLimit (s.config d).ceilingLimit
      (capStep (s.levelsOn d .cap) (floorStep (s.config d).rest (s.levelsOn d .floor))) := by
  simp [State.base, h]

theorem State.throttleAsserted_iff :
    s.throttleAsserted d = true ↔ (s.config d).throttleLine ≠ none ∧ (s.domain d).throttled = true := by
  simp [State.throttleAsserted, Option.isSome_iff_ne_none]

theorem State.effectiveCeiling_of_no_force (h : (s.domain d).force = none) :
    s.effectiveCeiling d = if s.throttleAsserted d = true then min (s.config d).ceilingLimit (s.config d).throttleLevel
      else (s.config d).ceilingLimit := by
  simp [State.effectiveCeiling, h]

theorem State.effectiveCeiling_of_force (h : (s.domain d).force ≠ none) :
    s.effectiveCeiling d = if s.throttleAsserted d = true then (s.config d).throttleLevel else 15 := by
  obtain ⟨f, hf⟩ := Option.ne_none_iff_exists'.1 h
  simp [State.effectiveCeiling, hf]

/-- While the line followed is asserted, the effective ceiling is not above the throttle level. -/
theorem State.effectiveCeiling_le (h : s.throttleAsserted d = true) :
    s.effectiveCeiling d ≤ (s.config d).throttleLevel := by
  by_cases hforce : (s.domain d).force = none
  · rw [State.effectiveCeiling_of_no_force hforce, if_pos h]
    exact min_le_right _ _
  · rw [State.effectiveCeiling_of_force hforce, if_pos h]

end Sys2Proof.Machine

/-! ### The statements -/

namespace Sys2Proof.Resolution

open Sys2Proof.Machine

/-- Settles O33: without a force, step 2a gives the highest demand, step 2b lowers it to the lowest CAP where one is
below it, and step 2c holds what is left within the limits. -/
theorem resolutionBaseAndSource : Obligations.ResolutionBaseAndSource := by
  intro s d
  refine ⟨fun l hforce => State.base_of_force hforce, fun hforce => ?_⟩
  obtain ⟨hrest, hfloors, htop, hsource⟩ := floorStep_spec (s.config d).rest (s.levelsOn d .floor)
  rw [State.base_of_no_force hforce]
  generalize floorStep (s.config d).rest (s.levelsOn d .floor) = b at *
  refine ⟨b.1, (capStep (s.levelsOn d .cap) b).1, (capStep (s.levelsOn d .cap) b).2, hrest,
    State.forall_mem_levelsOn.1 hfloors, htop.imp_right State.mem_levelsOn.1, fun hcaps => ?uncapped,
    fun ⟨h, r, hr, hd, hc, hlt⟩ => ?capped, rfl⟩
  case uncapped =>
    rw [capStep_of_forall_le (State.forall_mem_levelsOn.2 hcaps)]
    exact ⟨rfl, hsource⟩
  case capped =>
    obtain ⟨hmem, hle, hcap⟩ := capStep_of_exists_lt ⟨r.level, State.mem_levelsOn.2 ⟨h, r, hr, hd, hc, rfl⟩, hlt⟩
    exact ⟨hcap, State.mem_levelsOn.1 hmem, State.forall_mem_levelsOn.1 hle⟩

/-- Settles O34: the result is what step 3 leaves of the base, and rounding moves it up within the effective ceiling or
down. -/
theorem throttleAndRounding : Obligations.ThrottleAndRounding := by
  intro s d h0
  simp only [← State.throttleAsserted_iff]
  refine ⟨(throttleStep (s.throttleAsserted d) (s.config d).throttleLevel (s.base d)).1, s.effectiveCeiling d,
    fun ha hlt => ?lowered, fun hkeep => ?kept,
    fun hforce ha => (State.effectiveCeiling_of_no_force hforce).trans (if_pos ha),
    fun hforce ha => (State.effectiveCeiling_of_no_force hforce).trans (if_neg ha),
    fun hforce ha => (State.effectiveCeiling_of_force hforce).trans (if_pos ha),
    fun hforce ha => (State.effectiveCeiling_of_force hforce).trans (if_neg ha),
    fun hr => ?valid, fun hr hup => ?up, fun hr hnone => ?down, State.resolution_valid s d h0, fun ha => ?bound⟩
  case lowered =>
    rw [State.resolution, ha, throttleStep_of_lt hlt]
    exact ⟨rfl, rfl⟩
  case kept =>
    rw [State.resolution, throttleStep_of_not_lower hkeep]
    exact ⟨rfl, rfl⟩
  case valid => exact validStep_of_valid (valid := fun l => (s.point d l).valid) hr
  case up =>
    obtain ⟨hlt, hle, hlowest⟩ := validStep_up h0 hr hup
    exact ⟨hlt, hle, State.resolution_valid s d h0, hlowest⟩
  case down =>
    obtain ⟨hlt, hhighest⟩ := validStep_down h0 hr hnone
    exact ⟨hlt, State.resolution_valid s d h0, hhighest⟩
  case bound =>
    refine validStep_le h0 ?_ (State.effectiveCeiling_le ha)
    rw [ha]
    exact throttleStep_le _

/-- Settles O37: each evaluation by what it leaves of a record, of a pending set, and of the rest of the state. -/
theorem evaluationJudgesTheRecords : Obligations.EvaluationJudgesTheRecords := by
  intro s d
  exact ⟨s.evaluateSettled_record d, s.evaluateSettled_box d, s.evaluate_eq d _,
    s.evaluateParked_record d, s.evaluateParked_box d, s.evaluate_eq d _⟩

end Sys2Proof.Resolution
end

section
/-! PROOFS. The requests of the supervisor on operating points, levels, the throttle and the rail map: the checks in
their order, the write with the resolution or the re-evaluations that follow, and with that the statements on SET-POINT,
SET-LEVELS, SET-THROTTLE and MAP. -/

namespace Sys2Proof.Machine

variable {s : State}

/-! ### The rows of these requests -/

theorem exec_setPoint (d : DomainId) (l : Level) (valid clock volt : Byte) (s : State) :
    exec (.setPoint d l valid clock volt) s = execSetPoint d l valid clock volt s := rfl

theorem exec_setLevels (d : DomainId) (rest safe low high : Level) (s : State) :
    exec (.setLevels d rest safe low high) s = execSetLevels d rest safe low high s := rfl

theorem exec_setThrottle (d : DomainId) (line : Byte) (level : Level) (s : State) :
    exec (.setThrottle d line level) s = execSetThrottle d line level s := rfl

theorem exec_map (d : DomainId) (v : RailId) (s : State) : exec (.map d v) s = execMap d v s := rfl

/-! ### A write with the resolution that follows (R33) -/

/-- A re-resolution keeps the frame of its domain. -/
theorem State.DomainFrame.reresolve (s : State) (d : DomainId) : s.DomainFrame d (s.reresolve d) :=
  ((State.DomainFrame.resolve s d).trans (State.DomainFrame.act _ d _)).trans (State.DomainFrame.finish _ d)

@[simp] theorem State.reresolve_port (s : State) (d : DomainId) (p : PortId) : (s.reresolve d).port p = s.port p :=
  congrArg (·[p]) (State.DomainFrame.reresolve s d).ports

/-- An accepted request that writes `w` and re-resolves a domain answers with the target and the source. -/
theorem State.serve_reresolved {p : PortId} {i : Instr} {rest : List Sent} (hs : s.Awaits p i rest)
    (body : State → State × Reply) (w : State) (d : DomainId)
    (hbody : body (s.setPort p { s.port p with sent := rest }) =
      ((w.setPort p { s.port p with sent := rest }).reresolve d,
        targetReply (((w.setPort p { s.port p with sent := rest }).reresolve d).domain d)))
    (hport : w.port p = s.port p) :
    s.serve p i body = (w.reresolve d).answered p rest
      ⟨0x00, i.commandCode, byte ((w.reresolve d).domain d).target, byte ((w.reresolve d).domain d).source.number,
        0, 0, 0, 0⟩ s :=
  State.serve_answered hs body (w.reresolve d) (targetReply ((w.reresolve d).domain d))
    (by rw [hbody, State.setPort_reresolve, State.setPort_domain])
    ((State.reresolve_port w d p).trans hport)

/-! ### Codes and windows -/

theorem Rail.outsideWindow_iff {r : Rail} {code : Byte} : outsideWindow r.min r.max code = true ↔ ¬r.inside code := by
  simp only [outsideWindow, Rail.inside, Bool.or_eq_true, decide_eq_true_eq, not_and_or, BitVec.not_le]

/-- A valid-entry argument above 1 is neither of the two it can be. -/
theorem one_lt_byte_iff {b : Byte} : 1 < b ↔ b ≠ 0 ∧ b ≠ 1 := by bv_omega

/-! ### SET-POINT (R47 to R50) -/

theorem State.inUse_iff {d : DomainId} {l : Level} : s.inUse d l = true ↔
    (s.domain d).current = l ∨ (s.domain d).target = l ∨ (s.domain d).step = some l ∨ (s.config d).rest = l ∨
      (s.config d).safe = l := by
  simp [State.inUse, or_assoc]

section SetPoint
variable {d : DomainId} {l : Level} {valid : Byte} (clock volt : Byte)

theorem State.setPointRequest_badArgument (h0 : valid ≠ 0) (h1 : valid ≠ 1) :
    s.setPointRequest d l valid clock volt = (s, .refuse .badArgument) :=
  if_pos (one_lt_byte_iff.2 ⟨h0, h1⟩)

/-- With a valid-entry argument of 0 or 1 the in-use check comes first. -/
theorem State.setPointRequest_inUse (hv : valid = 0 ∨ valid = 1) (hu : s.inUse d l = true) :
    s.setPointRequest d l valid clock volt = (s, .refuse .inUse) := by
  rcases hv with rfl | rfl <;> simp [State.setPointRequest, hu]

theorem State.setPointRequest_clearsL0 (hu : ¬s.inUse d 0 = true) :
    s.setPointRequest d 0 0 clock volt = (s, .refuse .badArgument) := by
  simp [State.setPointRequest, hu]

theorem State.setPointRequest_outOfWindow (hu : ¬s.inUse d l = true) (hout : ¬(s.rail (s.railOf d)).inside volt) :
    s.setPointRequest d l 1 clock volt = (s, .refuse .outOfWindow) := by
  simp [State.setPointRequest, hu, Rail.outsideWindow_iff, hout]

/-- The entry is written where it is cleared above L0, or set within the window of the rail. -/
theorem State.setPointRequest_writes (hu : ¬s.inUse d l = true)
    (hok : (valid = 0 ∧ l ≠ 0) ∨ (valid = 1 ∧ (s.rail (s.railOf d)).inside volt)) {w : State}
    (hw : w = s.setPoint d l { valid := valid = 1, clock := clock, volt := volt }) :
    s.setPointRequest d l valid clock volt = (w.reresolve d, targetReply ((w.reresolve d).domain d)) := by
  subst hw
  rcases hok with ⟨rfl, hl⟩ | ⟨rfl, hin⟩
  · simp [State.setPointRequest, hu, hl]
  · simp [State.setPointRequest, hu, Rail.outsideWindow_iff, hin]

end SetPoint

/-! ### SET-LEVELS (R51, R52) -/

/-- The arguments that SET-LEVELS refuses with BAD_ARGUMENT: a level without a valid entry, or limits that cross. -/
def State.BadLevels (s : State) (d : DomainId) (rest safe low high : Level) : Prop :=
  (s.point d rest).valid = false ∨ (s.point d safe).valid = false ∨ high < low

section SetLevels
variable {d : DomainId} {rest safe low high : Level}

theorem State.badLevels_iff : s.BadLevels d rest safe low high ↔
    (!(s.point d rest).valid || !(s.point d safe).valid || low > high) = true := by
  simp [State.BadLevels, or_assoc]

theorem State.setLevelsRequest_badArgument (hbad : s.BadLevels d rest safe low high) :
    s.setLevelsRequest d rest safe low high = (s, .refuse .badArgument) :=
  if_pos (State.badLevels_iff.1 hbad)

theorem State.setLevelsRequest_outOfWindow (hbad : ¬s.BadLevels d rest safe low high)
    (hout : (s.rail (s.railOf d)).fallback < s.code d safe) :
    s.setLevelsRequest d rest safe low high = (s, .refuse .outOfWindow) :=
  (if_neg (mt State.badLevels_iff.2 hbad)).trans (if_pos hout)

theorem State.setLevelsRequest_writes (hbad : ¬s.BadLevels d rest safe low high)
    (hin : s.code d safe ≤ (s.rail (s.railOf d)).fallback) {w : State}
    (hw : w = s.setConfig d { s.config d with
      rest := rest, safe := safe, floorLimit := low, ceilingLimit := high }) :
    s.setLevelsRequest d rest safe low high = (w.reresolve d, targetReply ((w.reresolve d).domain d)) := by
  subst hw
  exact (if_neg (mt State.badLevels_iff.2 hbad)).trans (if_neg (BitVec.not_lt.2 hin))

end SetLevels

/-! ### SET-THROTTLE (R53) -/

theorem lineArgument_eq_none {line : Byte} (h : line.toNat > 2) : lineArgument line = none := by
  have h0 : line ≠ 0 := by rintro rfl; exact absurd h (by decide)
  have h1 : line ≠ 1 := by rintro rfl; exact absurd h (by decide)
  have h2 : line ≠ 2 := by rintro rfl; exact absurd h (by decide)
  simp only [lineArgument, if_neg h0, if_neg h1, if_neg h2]

/-- The three arguments of SET-THROTTLE, each with the line it names and the present level of that line. -/
theorem State.lineArgument_lineLevel {line : Byte} {followed : Option ThrottleLine} {level : Bool}
    (h : (line, followed, level) ∈
      [((0 : Byte), none, false), (1, some ThrottleLine.thr0, s.pins.thr0), (2, some .thr1, s.pins.thr1)]) :
    lineArgument line = some followed ∧ s.lineLevel followed = level := by
  simp only [List.mem_cons, Prod.mk.injEq, List.not_mem_nil, or_false] at h
  rcases h with ⟨rfl, rfl, rfl⟩ | ⟨rfl, rfl, rfl⟩ | ⟨rfl, rfl, rfl⟩ <;> exact ⟨rfl, rfl⟩

/-! ### The checks of MAP (Table 3-4) -/

/-- A domain at rest on L0 (check 2). -/
def Domain.AtRest (c : Domain) : Prop := c.state = .steady ∧ c.current = 0 ∧ c.target = 0

/-- The operating points and the safe level of a domain suit the settings of a rail (check 5). -/
def State.FitsRail (s : State) (d : DomainId) (r : Rail) : Prop :=
  (∀ l, (s.point d l).valid = true → r.inside (s.code d l)) ∧ s.code d (s.config d).safe ≤ r.fallback

/-- A rail delivers a code and is not going below it (check 6). -/
def Rail.Covers (r : Rail) (code : Byte) : Prop :=
  code ≤ r.confirmed ∧ ∀ c tries phase, r.command = .outstanding c tries phase → code ≤ c

theorem Domain.atRest_iff {c : Domain} : c.AtRest ↔ ¬(c.state ≠ .steady ∨ c.current ≠ 0 ∨ c.target ≠ 0) := by
  simp [Domain.AtRest]

theorem State.fitsRail_iff {d : DomainId} {r : Rail} : s.FitsRail d r ↔
    ¬(s.entryOutside d r.min r.max = true ∨ s.code d (s.config d).safe > r.fallback) := by
  simp [State.FitsRail, State.entryOutside, allLevels, Rail.outsideWindow_iff]

theorem Rail.covers_iff {r : Rail} {code : Byte} : r.Covers code ↔ ¬r.belowCode code = true := by
  unfold Rail.Covers Rail.belowCode
  cases r.command <;> simp

/-- Outside fault handling a rail passes checks 3 and 4. -/
theorem Rail.not_faulted_iff {r : Rail} :
    r.faulted = false ↔ ¬(r.state = .fallback ∨ r.state = .held) ∧ r.state ≠ .shutdown := by
  simp [Rail.faulted]

section MapRequest
variable {d : DomainId} {v : RailId}

theorem State.mapRequest_wrongPhase (hrun : s.phase = .run) : s.mapRequest d v = (s, .refuse .wrongPhase) :=
  if_pos hrun

variable (hsetup : s.phase = .setup)
include hsetup

theorem State.mapRequest_inUse (hrest : ¬(s.domain d).AtRest) : s.mapRequest d v = (s, .refuse .inUse) := by
  rw [Domain.atRest_iff, not_not] at hrest
  simp only [State.mapRequest, hsetup, hrest, reduceCtorEq, if_true, if_false]

variable (hrest : (s.domain d).AtRest)
include hrest

theorem State.mapRequest_faultBusy (hbusy : (s.rail v).state = .fallback ∨ (s.rail v).state = .held) :
    s.mapRequest d v = (s, .refuse .faultBusy) := by
  rw [Domain.atRest_iff] at hrest
  simp only [State.mapRequest, hsetup, hrest, hbusy, reduceCtorEq, if_true, if_false]

theorem State.mapRequest_railShut (hshut : (s.rail v).state = .shutdown) :
    s.mapRequest d v = (s, .refuse .railShut) := by
  rw [Domain.atRest_iff] at hrest
  simp only [State.mapRequest, hsetup, hrest, hshut, reduceCtorEq, or_self, if_true, if_false]

variable (hfree : (s.rail v).faulted = false)
include hfree

theorem State.mapRequest_outOfWindow (h : ¬(s.FitsRail d (s.rail v) ∧ (s.rail v).Covers (s.code d 0))) :
    s.mapRequest d v = (s, .refuse .outOfWindow) := by
  rw [Domain.atRest_iff] at hrest
  obtain ⟨hbusy, hshut⟩ := Rail.not_faulted_iff.1 hfree
  rw [State.fitsRail_iff, Rail.covers_iff, ← not_or, not_not] at h
  simp only [State.mapRequest, hsetup, hrest, hbusy, hshut, reduceCtorEq, if_false]
  rcases h with hout | hbelow
  · rw [if_pos hout]
  · rw [if_pos hbelow, ite_self]

theorem State.mapRequest_moves (hfits : s.FitsRail d (s.rail v)) (hcovers : (s.rail v).Covers (s.code d 0)) :
    s.mapRequest d v = ((s.setConfig d { s.config d with rail := v }).reevaluateBoth (s.railOf d) v,
      .ok (byte (s.railOf d)) (byte v) 0 0 0 0) := by
  rw [Domain.atRest_iff] at hrest
  obtain ⟨hbusy, hshut⟩ := Rail.not_faulted_iff.1 hfree
  simp only [State.mapRequest, hsetup, hrest, hbusy, hshut, State.fitsRail_iff.1 hfits, Rail.covers_iff.1 hcovers,
    reduceCtorEq, if_false]

end MapRequest

/-! ### Two rails re-evaluate (R56, R57, R86, R88) -/

/-- A rail that already has the command of the command rule keeps it. -/
theorem Rail.commandRule_fixed {r q : Rail} (hcommand : q.command = r.commandRule.command)
    (hrequired : q.required = r.required) (hconfirmed : q.confirmed = r.confirmed) : q.commandRule = q := by
  rcases Rail.commandRule_cases r with ⟨code, tries, phase, hout, e⟩ | ⟨-, heq, e⟩ | ⟨-, hne, e⟩
  · have hq : q.command = .outstanding code tries phase := by rw [hcommand, e, hout]
    rw [Rail.commandRule, hq]
  · have hq : q.command = .none := by rw [hcommand, e]
    rw [Rail.commandRule, hq]
    exact if_pos (by rw [hrequired, hconfirmed, heq])
  · have hq : q.command = .queued q.required := by rw [hcommand, e, hrequired]
    rw [Rail.commandRule, hq]
    exact (if_neg (by rwa [hrequired, hconfirmed])).trans (by rw [← hq])

theorem Rail.commandRule_required (r : Rail) : r.commandRule.required = r.required := by
  rcases Rail.commandRule_cases r with ⟨_, _, _, -, e⟩ | ⟨-, -, e⟩ | ⟨-, -, e⟩ <;> rw [e]

theorem Rail.commandRule_confirmed (r : Rail) : r.commandRule.confirmed = r.confirmed := by
  rcases Rail.commandRule_cases r with ⟨_, _, _, -, e⟩ | ⟨-, -, e⟩ | ⟨-, -, e⟩ <;> rw [e]

/-- A rail that takes a state of Table 5-3 is outside fault handling. -/
theorem Rail.withOrdinaryState_not_faulted (r q : Rail) (b : Bool) :
    Rail.faulted { q with state := r.ordinaryState b } = false := by
  unfold Rail.faulted Rail.ordinaryState
  split <;> split <;> rfl

/-- A rail re-evaluated with a required code and with whether its domains are all PARKED: `State.reevaluated`, as a
change of the rail alone. -/
def Rail.reevaluated (r : Rail) (required : Byte) (parked : Bool) : Rail :=
  let q := { r with required := required }
  if q.faulted then q else { q.commandRule with state := q.commandRule.ordinaryState parked }

theorem State.reevaluated_eq_rail (s : State) (v : RailId) :
    s.reevaluated v = (s.rail v).reevaluated (s.requiredCode v) (s.allParked v) := rfl

/-- A rail that re-evaluates twice on the same needs is as after the first time. -/
theorem Rail.reevaluated_reevaluated (r : Rail) (required : Byte) (parked : Bool) :
    (r.reevaluated required parked).reevaluated required parked = r.reevaluated required parked := by
  cases hf : r.faulted with
  | true =>
    have h : r.reevaluated required parked = { r with required := required } := if_pos hf
    rw [h]
    exact if_pos hf
  | false =>
    have h : r.reevaluated required parked =
        { Rail.commandRule { r with required := required } with
          state := (Rail.commandRule { r with required := required }).ordinaryState parked } :=
      if_neg (by rw [Bool.not_eq_true]; exact hf)
    generalize hq : r.reevaluated required parked = q at h
    have hrequired : q.required = required := by rw [h]; exact Rail.commandRule_required _
    have hfixed : q.commandRule = q := Rail.commandRule_fixed (r := { r with required := required })
      (by rw [h]) hrequired (by rw [h]; exact Rail.commandRule_confirmed _)
    have hstate : q.ordinaryState parked = q.state := by rw [h]; rfl
    have hfree : q.faulted = false := by rw [h]; exact Rail.withOrdinaryState_not_faulted _ _ _
    have hself : { q with required := required } = q := by rw [← hrequired]
    simp only [Rail.reevaluated, hself, hfree, hfixed, hstate, Bool.false_eq_true, if_false]

/-- The required code and the parked domains of a rail do not depend on another re-evaluation. -/
theorem State.reevaluate_requiredCode (s : State) (v w : RailId) :
    (s.reevaluate v).requiredCode w = s.requiredCode w := by
  refine State.requiredCode_congr (s.reevaluate_setups v) (fun d _ => by simp) ?_
  rw [State.reevaluate_rail]
  split
  · next h =>
    obtain ⟨_, _, e⟩ := s.reevaluated_eq v
    rw [h, e]
    exact ⟨rfl, rfl, rfl⟩
  · exact ⟨rfl, rfl, rfl⟩

theorem State.reevaluate_allParked (s : State) (v w : RailId) : (s.reevaluate v).allParked w = s.allParked w := by
  rw [Bool.eq_iff_iff]
  simp only [State.allParked_iff, State.railOf_congr (s.reevaluate_setups v), State.reevaluate_domain]

/-- A re-evaluation leaves a rail what it is after one of its own, whichever rail the first one was of. -/
theorem State.reevaluate_reevaluated (s : State) (v w : RailId) : (s.reevaluate v).reevaluated w = s.reevaluated w := by
  rw [State.reevaluated_eq_rail, State.reevaluate_requiredCode, State.reevaluate_allParked, State.reevaluate_rail,
    State.reevaluated_eq_rail]
  split
  · next h =>
    subst h
    exact Rail.reevaluated_reevaluated _ _ _
  · rfl

/-- Two re-evaluations change their rails and the rail the link controller has chosen, and nothing else. -/
theorem State.reevaluate_reevaluate_eq (s : State) (v w : RailId) : ∃ elected,
    (s.reevaluate v).reevaluate w = { s with
      rails := ((s.reevaluate v).reevaluate w).rails, link := { s.link with elected := elected } } := by
  refine ⟨((s.reevaluate v).reevaluate w).link.elected, ?_⟩
  rw [(s.reevaluate v).reevaluate_eq w, s.reevaluate_eq v]
  rfl

theorem State.reevaluate_reevaluate_rail (s : State) (v w x : RailId) :
    ((s.reevaluate v).reevaluate w).rail x = if x = w ∨ x = v then s.reevaluated x else s.rail x := by
  rw [State.reevaluate_rail, State.reevaluate_reevaluated, State.reevaluate_rail]
  by_cases hw : x = w
  · simp only [hw, if_true, true_or]
  · by_cases hv : x = v
    · subst hv
      simp only [hw, if_true, if_false, or_true]
    · simp only [hw, hv, if_false, or_self]

/-- In the order that is taken, one rail re-evaluates after the other. -/
theorem State.reevaluateBoth_cases (s : State) (old new : RailId) : ∃ choices,
    s.reevaluateBoth old new = { (s.reevaluate old).reevaluate new with choices := choices } ∨
    s.reevaluateBoth old new = { (s.reevaluate new).reevaluate old with choices := choices } := by
  unfold State.reevaluateBoth
  dsimp only
  split
  · exact ⟨_, Or.inl rfl⟩
  · split
    · exact ⟨_, Or.inl rfl⟩
    · exact ⟨_, Or.inr rfl⟩

theorem State.reevaluateBoth_eq (s : State) (old new : RailId) : ∃ elected choices,
    s.reevaluateBoth old new = { s with
      rails := (s.reevaluateBoth old new).rails, link := { s.link with elected := elected }, choices := choices } := by
  obtain ⟨choices, e | e⟩ := s.reevaluateBoth_cases old new
  · obtain ⟨elected, h⟩ := s.reevaluate_reevaluate_eq old new
    exact ⟨elected, choices, by rw [e, h]⟩
  · obtain ⟨elected, h⟩ := s.reevaluate_reevaluate_eq new old
    exact ⟨elected, choices, by rw [e, h]⟩

/-- Both rails are as after a re-evaluation of their own, in either order. -/
theorem State.reevaluateBoth_rail (s : State) (old new x : RailId) :
    (s.reevaluateBoth old new).rail x = if x = new ∨ x = old then s.reevaluated x else s.rail x := by
  obtain ⟨choices, e | e⟩ := s.reevaluateBoth_cases old new
  · rw [e]
    exact s.reevaluate_reevaluate_rail old new x
  · rw [e]
    simp only [or_comm (a := x = new)]
    exact s.reevaluate_reevaluate_rail new old x

theorem State.reevaluateBoth_requiredCode (s : State) (old new x : RailId) :
    (s.reevaluateBoth old new).requiredCode x = s.requiredCode x := by
  have key (v w : RailId) : ((s.reevaluate v).reevaluate w).requiredCode x = s.requiredCode x :=
    ((s.reevaluate v).reevaluate_requiredCode w x).trans (s.reevaluate_requiredCode v x)
  obtain ⟨choices, e | e⟩ := s.reevaluateBoth_cases old new
  · rw [e]
    exact key old new
  · rw [e]
    exact key new old

end Sys2Proof.Machine

/-! ### The statements -/

namespace Sys2Proof.DomainSetup

open Sys2Proof.Machine

/-- Settles O26, check by check of Table 3-3. -/
theorem setPointChecksAndWrites : Obligations.SetPointChecksAndWrites := by
  intro s d l valid clock volt rest hs
  simp only [exec_setPoint, execSetPoint, ← State.inUse_iff]
  refine ⟨fun h0 h1 => ?badArgument, fun hv hu => ?inUse, ?clearsL0, ?outOfWindow, fun hok hu => ?written⟩
  case badArgument =>
    rw [State.serve_refused hs _ .badArgument (State.setPointRequest_badArgument clock volt h0 h1)]
    rfl
  case inUse =>
    rw [State.serve_refused hs _ .inUse (State.setPointRequest_inUse (s := s.setPort _ _) clock volt hv hu)]
    rfl
  case clearsL0 =>
    rintro rfl hu rfl
    rw [State.serve_refused hs _ .badArgument (State.setPointRequest_clearsL0 (s := s.setPort _ _) clock volt hu)]
    rfl
  case outOfWindow =>
    rintro rfl hu hout
    rw [State.serve_refused hs _ .outOfWindow
      (State.setPointRequest_outOfWindow (s := s.setPort _ _) clock volt hu hout)]
    rfl
  case written =>
    rw [State.serve_reresolved hs _ (s.setPoint d l { valid := valid = 1, clock := clock, volt := volt }) d
      (State.setPointRequest_writes (s := s.setPort _ _) clock volt hu hok rfl) rfl]
    rfl

/-- Settles O27: SET-LEVELS check by check, SET-THROTTLE by the line that its argument names. -/
theorem levelsAndThrottleAreWritten : Obligations.LevelsAndThrottleAreWritten := by
  intro s d rl sl low high line rest
  constructor
  · intro hs
    simp only [exec_setLevels, execSetLevels]
    refine ⟨fun hbad => ?badArgument, fun hbad hout => ?outOfWindow, fun hbad hin => ?written⟩
    case badArgument =>
      rw [State.serve_refused hs _ .badArgument (State.setLevelsRequest_badArgument (s := s.setPort _ _) hbad)]
      rfl
    case outOfWindow =>
      rw [State.serve_refused hs _ .outOfWindow (State.setLevelsRequest_outOfWindow (s := s.setPort _ _) hbad hout)]
      rfl
    case written =>
      rw [State.serve_reresolved hs _
        (s.setConfig d { s.config d with rest := rl, safe := sl, floorLimit := low, ceilingLimit := high }) d
        (State.setLevelsRequest_writes (s := s.setPort _ _) hbad hin rfl) rfl]
      rfl
  · intro hs
    simp only [exec_setThrottle, execSetThrottle]
    refine ⟨fun hline => ?noLine, fun followed level hline => ?written⟩
    case noLine =>
      rw [State.serve_refused hs _ .badArgument (by rw [lineArgument_eq_none hline])]
      rfl
    case written =>
      obtain ⟨hargument, hlevel⟩ := State.lineArgument_lineLevel hline
      rw [State.serve_reresolved hs _
        ((s.setConfig d { s.config d with throttleLine := followed, throttleLevel := low }).setDomain d
          { s.domain d with throttled := level }) d (by rw [hargument, ← hlevel]; rfl) rfl]
      rfl

/-- Settles O29, check by check of Table 3-4; an accepted MAP leaves each of its two rails as a re-evaluation of that
rail alone leaves it, whichever comes first. -/
theorem mapChecksAndMoves : Obligations.MapChecksAndMoves := by
  intro s d v rest hs
  simp only [exec_map, execMap]
  refine ⟨fun hrun => ?wrongPhase, fun hsetup hrest => ?inUse, fun hsetup hrest hbusy => ?faultBusy,
    fun hsetup hrest hshut => ?railShut, fun hsetup hrest hfree hout => ?outOfWindow,
    fun hsetup hrest hfree hfits hcovers => ?moved⟩
  case wrongPhase =>
    rw [State.serve_refused hs _ .wrongPhase (State.mapRequest_wrongPhase (s := s.setPort _ _) hrun)]
    rfl
  case inUse =>
    rw [State.serve_refused hs _ .inUse (State.mapRequest_inUse (s := s.setPort _ _) hsetup hrest)]
    rfl
  case faultBusy =>
    rw [State.serve_refused hs _ .faultBusy (State.mapRequest_faultBusy (s := s.setPort _ _) hsetup hrest hbusy)]
    rfl
  case railShut =>
    rw [State.serve_refused hs _ .railShut (State.mapRequest_railShut (s := s.setPort _ _) hsetup hrest hshut)]
    rfl
  case outOfWindow =>
    rw [State.serve_refused hs _ .outOfWindow
      (State.mapRequest_outOfWindow (s := s.setPort _ _) hsetup hrest hfree hout)]
    rfl
  case moved =>
    have hcode := (s.setConfig d { s.config d with rail := v }).reevaluateBoth_requiredCode (s.railOf d) v
    have hrail := (s.setConfig d { s.config d with rail := v }).reevaluateBoth_rail (s.railOf d) v
    obtain ⟨elected, choices, heq⟩ :=
      (s.setConfig d { s.config d with rail := v }).reevaluateBoth_eq (s.railOf d) v
    have hmoves := State.mapRequest_moves (s := s.setPort supervisor { s.port supervisor with sent := rest })
      hsetup hrest hfree hfits hcovers
    rw [State.setPort_config, State.setPort_setConfig, State.setPort_railOf, State.setPort_reevaluateBoth] at hmoves
    generalize State.reevaluateBoth _ (s.railOf d) v = t at *
    have hsetups : t.setups = (s.setConfig d { s.config d with rail := v }).setups := by rw [heq]
    refine ⟨t, ?answer, ?frame, fun e => ?config, fun e l => ?point, fun w hv hold => ?otherRail,
      fun w hw => ?bothRails, ?link⟩
    case answer =>
      rw [State.serve_answered hs _ t (.ok (byte (s.railOf d)) (byte v) 0 0 0 0) hmoves (by rw [heq]; rfl)]
      rfl
    case frame => rw [heq]; rfl
    case config => rw [State.config_congr hsetups, State.setConfig_config]
    case point => rw [State.point_congr hsetups, State.setConfig_point]
    case otherRail =>
      rw [hrail, if_neg (not_or.2 ⟨hv, hold⟩)]
      rfl
    case bothRails =>
      obtain ⟨command, state, hre⟩ := (s.setConfig d { s.config d with rail := v }).reevaluated_eq w
      rw [State.reevaluate_rail, if_pos rfl, hcode, hrail, if_pos hw, hre]
      exact ⟨rfl, rfl, rfl⟩
    case link => exact ⟨elected, by rw [heq]; rfl⟩

end Sys2Proof.DomainSetup
end

section
/-! PROOFS. The rail's required code and the settings that SET-RAIL accepts: the needs presented to a rail and the
highest of them, the checks of SET-RAIL in their order, and with that the statements on Table 5-2 and on SET-RAIL. -/

namespace Sys2Proof.Machine

variable {s : State} {v : RailId}

/-! ### The required code (R85, Table 5-2) -/

/-- The highest of a list of codes is the member that no member exceeds. -/
theorem highestCode_eq {codes : List Byte} {code : Byte} (hmem : code ∈ codes) (hle : ∀ x ∈ codes, x ≤ code) :
    highestCode codes = code :=
  BitVec.le_antisymm (highestCode_le.2 hle) (highestCode_le.1 (BitVec.le_refl _) code hmem)

/-- The clamping of Table 5-2 to a window that is not empty. -/
theorem lowerCode_higherCode {min max : Byte} (h : min ≤ max) (code : Byte) :
    lowerCode max (higherCode min code) = if code < min then min else if max < code then max else code := by
  unfold lowerCode higherCode
  split_ifs <;> bv_omega

theorem State.needs_eq_nil_iff : s.needs v = [] ↔ ∀ d, s.railOf d = v → (s.domain d).need = none := by
  simp [State.needs, State.mem_mapped]

theorem State.not_allParked_iff :
    ¬s.allParked v = true ↔ ∃ d, s.railOf d = v ∧ (s.domain d).state ≠ .parked := by
  simp [State.allParked_iff]

theorem State.requiredCode_of_allParked (h : s.allParked v = true) : s.requiredCode v = (s.rail v).retention :=
  if_pos h

theorem State.requiredCode_of_no_needs (h : ¬s.allParked v = true) (hneeds : s.needs v = []) :
    s.requiredCode v = (s.rail v).min :=
  (if_neg h).trans (if_pos hneeds)

theorem State.requiredCode_of_needs (h : ¬s.allParked v = true) (hneeds : s.needs v ≠ []) :
    s.requiredCode v = lowerCode (s.rail v).max (higherCode (s.rail v).min (highestCode (s.needs v))) :=
  (if_neg h).trans (if_neg hneeds)

/-! ### The checks of SET-RAIL (Table 5-6) -/

theorem exec_setRail (v : RailId) (min max fallback retention stepTime : Byte) (s : State) :
    exec (.setRail v min max fallback retention stepTime) s = execSetRail v min max fallback retention stepTime s := rfl

/-- A code that a window leaves out. -/
def OutOf (min max code : Byte) : Prop := code < min ∨ max < code

/-- The arguments that SET-RAIL refuses with BAD_ARGUMENT: an empty window, or a step time of 0. -/
def BadSettings (min max stepTime : Byte) : Prop := max < min ∨ stepTime = 0

/-- The settings that SET-RAIL refuses with OUT_OF_WINDOW: the window leaves out one of the rail's codes, an operating
point of its domains or the code of its command, or the fallback code does not deliver a safe level. -/
def State.Misfit (s : State) (v : RailId) (min max fallback retention : Byte) : Prop :=
  OutOf min max fallback ∨ OutOf min max retention ∨
    (∃ d l, s.railOf d = v ∧ (s.point d l).valid = true ∧ OutOf min max (s.code d l)) ∨
    (∃ d, s.railOf d = v ∧ fallback < s.code d (s.config d).safe) ∨
    ∃ code tries phase, (s.rail v).command = .outstanding code tries phase ∧ OutOf min max code

theorem outsideWindow_iff_outOf {min max code : Byte} : outsideWindow min max code = true ↔ OutOf min max code := by
  simp [outsideWindow, OutOf]

theorem State.entryOutside_iff {d : DomainId} {min max : Byte} :
    s.entryOutside d min max = true ↔ ∃ l, (s.point d l).valid = true ∧ OutOf min max (s.code d l) := by
  simp [State.entryOutside, allLevels, outsideWindow_iff_outOf]

theorem Rail.outstandingOutside_iff {r : Rail} {min max : Byte} : r.outstandingOutside min max = true ↔
    ∃ code tries phase, r.command = .outstanding code tries phase ∧ OutOf min max code := by
  unfold Rail.outstandingOutside
  cases r.command <;> simp [outsideWindow_iff_outOf]

section SetRail
variable {min max fallback retention stepTime : Byte}

/-- Checks 4 to 7, in the order and the form in which the rail makes them. -/
theorem State.misfit_iff : s.Misfit v min max fallback retention ↔
    (((outsideWindow min max fallback = true ∨ outsideWindow min max retention = true) ∨
      ((s.mapped v).any fun d => s.entryOutside d min max) = true) ∨
      ((s.mapped v).any fun d => decide (fallback < s.code d (s.config d).safe)) = true) ∨
      (s.rail v).outstandingOutside min max = true := by
  simp only [State.Misfit, outsideWindow_iff_outOf, Rail.outstandingOutside_iff, List.any_eq_true, State.mem_mapped,
    State.entryOutside_iff, decide_eq_true_eq, exists_and_left, or_assoc]

theorem State.setRailRequest_badArgument (hbad : BadSettings min max stepTime) :
    s.setRailRequest v min max fallback retention stepTime = (s, .refuse .badArgument) :=
  if_pos hbad

variable (hbad : ¬BadSettings min max stepTime)
include hbad

theorem State.setRailRequest_faultBusy (hbusy : (s.rail v).state = .fallback ∨ (s.rail v).state = .held) :
    s.setRailRequest v min max fallback retention stepTime = (s, .refuse .faultBusy) :=
  (if_neg hbad).trans (if_pos hbusy)

theorem State.setRailRequest_railShut (hshut : (s.rail v).state = .shutdown) :
    s.setRailRequest v min max fallback retention stepTime = (s, .refuse .railShut) := by
  have hbusy : ¬((s.rail v).state = .fallback ∨ (s.rail v).state = .held) := by simp [hshut]
  exact (if_neg hbad).trans ((if_neg hbusy).trans (if_pos hshut))

variable (hfree : (s.rail v).faulted = false)
include hfree

theorem State.setRailRequest_outOfWindow (hmisfit : s.Misfit v min max fallback retention) :
    s.setRailRequest v min max fallback retention stepTime = (s, .refuse .outOfWindow) := by
  obtain ⟨hbusy, hshut⟩ := Rail.not_faulted_iff.1 hfree
  refine (if_neg hbad).trans ((if_neg hbusy).trans ((if_neg hshut).trans ?_))
  rw [← ite_or, ← ite_or, ← ite_or]
  exact if_pos (State.misfit_iff.1 hmisfit)

/-- The settings are written and the rail re-evaluates. -/
theorem State.setRailRequest_writes (hfits : ¬s.Misfit v min max fallback retention) {w : State}
    (hw : w = s.setRail v { s.rail v with
      min := min, max := max, fallback := fallback, retention := retention, stepTime := stepTime }) :
    s.setRailRequest v min max fallback retention stepTime = (w.reevaluate v,
      .ok ((w.reevaluate v).rail v).confirmed ((w.reevaluate v).rail v).required 0 0 0 0) := by
  subst hw
  obtain ⟨hbusy, hshut⟩ := Rail.not_faulted_iff.1 hfree
  refine (if_neg hbad).trans ((if_neg hbusy).trans ((if_neg hshut).trans ?_))
  rw [← ite_or, ← ite_or, ← ite_or]
  exact if_neg (mt State.misfit_iff.2 hfits)

end SetRail

end Sys2Proof.Machine

/-! ### The statements -/

namespace Sys2Proof.RailSetup

open Sys2Proof.Machine

/-- Settles O47, by the rows of Table 5-2: all domains PARKED, no need presented, and a highest need. -/
theorem requiredCodeOfARail : Obligations.RequiredCodeOfARail := by
  intro s v
  refine ⟨fun hparked => ?retention, fun hrun => ⟨fun hnone => ?noNeed,
    fun d code hd hneed hmax hwindow => ?highest⟩⟩
  case retention => exact State.requiredCode_of_allParked (State.allParked_iff.2 hparked)
  case noNeed =>
    exact State.requiredCode_of_no_needs (State.not_allParked_iff.2 hrun) (State.needs_eq_nil_iff.2 hnone)
  case highest =>
    have hmem : code ∈ s.needs v := State.mem_needs.2 ⟨d, hd, hneed⟩
    have hle : ∀ n ∈ s.needs v, n ≤ code := fun n hn => by
      obtain ⟨e, he, hen⟩ := State.mem_needs.1 hn
      exact hmax e he n hen
    rw [State.requiredCode_of_needs (State.not_allParked_iff.2 hrun) (List.ne_nil_of_mem hmem),
      highestCode_eq hmem hle, lowerCode_higherCode hwindow]

/-- Settles O31, check by check of Table 5-6; a re-evaluation does not see that the request has left its port. -/
theorem setRailChecksAndWrites : Obligations.SetRailChecksAndWrites := by
  intro s v min max fallback retention stepTime rest hs
  simp only [exec_setRail, execSetRail]
  refine ⟨fun hbad => ?badArgument, fun hbad hbusy => ?faultBusy, fun hbad hshut => ?railShut,
    fun hbad hfree hmisfit => ?outOfWindow, fun hbad hfree hfits => ?written⟩
  case badArgument =>
    rw [State.serve_refused hs _ .badArgument (State.setRailRequest_badArgument (s := s.setPort _ _) hbad)]
    rfl
  case faultBusy =>
    rw [State.serve_refused hs _ .faultBusy (State.setRailRequest_faultBusy (s := s.setPort _ _) hbad hbusy)]
    rfl
  case railShut =>
    rw [State.serve_refused hs _ .railShut (State.setRailRequest_railShut (s := s.setPort _ _) hbad hshut)]
    rfl
  case outOfWindow =>
    rw [State.serve_refused hs _ .outOfWindow
      (State.setRailRequest_outOfWindow (s := s.setPort _ _) hbad hfree hmisfit)]
    rfl
  case written =>
    have hwrites := State.setRailRequest_writes (s := s.setPort supervisor { s.port supervisor with sent := rest })
      hbad hfree hfits rfl
    rw [State.setPort_rail, State.setPort_setRail, State.setPort_reevaluate, State.setPort_rail] at hwrites
    rw [State.serve_answered hs _ _ _ hwrites (by rw [State.reevaluate_eq]; rfl)]
    rfl

end Sys2Proof.RailSetup
end

section
/-! PROOFS. The plan that ends an event of a domain controller, the park controller after a withdrawal, and the request
SET-PARK: its check, the settings that it writes, and with that the statement on SET-PARK. -/

namespace Sys2Proof.Machine

variable {s u : State} {d : DomainId}

/-! ### A plan at the end of an event (R64, R66, Table 4-4) -/

/-- A record of a domain that is not FROZEN, once it is no longer settled, has the status that R40 gives it. -/
theorem State.unsettled_status {r : Record} (hstate : (s.domain r.domain).state ≠ .frozen) :
    r.unsettled.status = s.leftStatus r := by
  cases hr : r.status <;> simp [Record.unsettled, State.leftStatus, hr, hstate]

/-- The need after a plan, by the three rows of Table 4-4. -/
theorem State.plan_needOf (s : State) (d : DomainId) :
    (s.plan d).needOf d = some (
      if (s.domain d).target = (s.domain d).current then s.code d (s.domain d).current
      else if s.assured (s.railOf d) < s.code d (s.domain d).target then s.code d (s.domain d).target
      else higherCode (s.code d (s.domain d).current) (s.code d (s.domain d).target)) := by
  have hcode : ∀ l, (s.plan d).code d l = s.code d l := (State.DomainFrame.plan s d).code d
  simp only [State.needOf, State.plan_domain, hcode]
  split_ifs <;> simp

/-- A plan changes nothing of the quiet timer. -/
theorem State.plan_quietTimer (s : State) (d : DomainId) :
    ((s.plan d).domain d).quietTimer = (s.domain d).quietTimer := by
  rw [State.plan_domain]
  split_ifs <;> rfl

/-- A domain that is not FROZEN and plans at the end of its event is where Table 4-4 puts it. -/
theorem State.plan_finish_plansTo (hstate : (s.domain d).state ≠ .frozen) :
    s.PlansTo ((s.plan d).finish d) d (s.domain d).current (s.domain d).target := by
  have hleft : ∀ h, ∀ r ∈ s.record h, r.domain = d → (s.domain d).target ≠ (s.domain d).current →
      ∃ q, ((s.plan d).finish d).record h = some q ∧ q.status = s.leftStatus r := by
    rintro h r hr rfl hmove
    rw [Option.mem_def] at hr
    exact ⟨r.unsettled, by simp [State.plan_record, hr, hmove], State.unsettled_status hstate⟩
  refine ⟨?quiet, fun hsettle => ?settles, fun hmove hcover => ?raises, fun hmove hcover => ?steps⟩
  case quiet =>
    have hquiet := (s.plan d).finish_quietTimer d
    rwa [State.QuietTimerFollows, State.plan_quietTimer] at hquiet
  case settles =>
    have heval : ∀ h, ∀ r ∈ s.record h, r.domain = d →
        ((s.plan d).finish d).record h = some (r.evaluatedAt (s.domain d).current) := by
      intro h r hr hd
      rw [Option.mem_def] at hr
      simp [State.plan_record, hr, hd, hsettle]
    simp only [State.finish_domain, State.plan_needOf, State.plan_domain, if_pos hsettle, true_and]
    exact heval
  case raises =>
    simp only [State.finish_domain, State.plan_needOf, State.plan_domain, if_neg hmove, if_pos hcover, true_and]
    exact fun h r hr hd => hleft h r hr hd hmove
  case steps =>
    simp only [State.finish_domain, State.plan_needOf, State.plan_domain, if_neg hmove,
      if_neg (BitVec.not_lt.2 hcover), true_and]
    exact fun h r hr hd => hleft h r hr hd hmove

/-! ### What a plan reads -/

/-- `u` agrees with `s` in all that the statements on a plan of domain d read besides its levels. -/
structure State.PlansAlike (d : DomainId) (s u : State) : Prop where
  records : u.records = s.records
  boxes : u.boxes = s.boxes
  point : ∀ l, u.point d l = s.point d l
  assured : u.assured (u.railOf d) = s.assured (s.railOf d)
  quietTimer : (u.domain d).quietTimer = (s.domain d).quietTimer
  frozen : (u.domain d).state = .frozen ↔ (s.domain d).state = .frozen

theorem State.PlansAlike.record (h : s.PlansAlike d u) (k : Handle) : u.record k = s.record k :=
  congrArg (·[k]) h.records

theorem State.PlansAlike.code (h : s.PlansAlike d u) (l : Level) : u.code d l = s.code d l :=
  congrArg Point.volt (h.point l)

theorem State.PlansAlike.leftStatus (h : s.PlansAlike d u) {r : Record} (hr : r.domain = d) :
    u.leftStatus r = s.leftStatus r := by
  simp only [State.leftStatus, hr, ne_eq, h.frozen]

theorem State.PlansAlike.planNotices (h : s.PlansAlike d u) (current target : Level) :
    u.planNotices d current target = s.planNotices d current target := by
  funext p
  simp only [State.planNotices, State.settledNotices, State.live_congr h.records]

theorem State.PlansAlike.plansTo (h : s.PlansAlike d u) {t : State} {current target : Level}
    (hplan : u.PlansTo t d current target) : s.PlansTo t d current target := by
  have hleft : (∀ k, ∀ r ∈ u.record k, r.domain = d → ∃ q, t.record k = some q ∧ q.status = u.leftStatus r) →
      ∀ k, ∀ r ∈ s.record k, r.domain = d → ∃ q, t.record k = some q ∧ q.status = s.leftStatus r := by
    intro hu k r hr hd
    rw [← h.leftStatus hd]
    exact hu k r (h.record k ▸ hr) hd
  obtain ⟨hquiet, hsettles, hraises, hsteps⟩ := hplan
  rw [State.QuietTimerFollows, h.quietTimer] at hquiet
  simp only [h.record, h.code] at hsettles
  rw [h.assured] at hraises hsteps
  simp only [h.code] at hraises hsteps
  simp only [h.point] at hsteps
  refine ⟨hquiet, hsettles, fun hmove hcover => ?raises, fun hmove hcover => ?steps⟩
  case raises =>
    obtain ⟨hstate, hsettled, hneed, hrecords⟩ := hraises hmove hcover
    exact ⟨hstate, hsettled, hneed, hleft hrecords⟩
  case steps =>
    obtain ⟨hstate, hsettled, hstep, hstrobe, htimer, hneed, hrecords⟩ := hsteps hmove hcover
    exact ⟨hstate, hsettled, hstep, hstrobe, htimer, hneed, hleft hrecords⟩

/-- The ports have the notices of the plan at the end of an event. -/
theorem State.plan_finish_told (s : State) (d : DomainId) :
    s.Told ((s.plan d).finish d) (s.planNotices d (s.domain d).current (s.domain d).target) := by
  intro p
  rw [State.finish_box, State.plan_box]

theorem State.PlansAlike.told (h : s.PlansAlike d u) {t : State} {news : PortId → List Notice}
    (htold : u.Told t news) : s.Told t news := by
  intro p
  rw [htold p, State.box, h.boxes]
  rfl

/-! ### A withdrawal (R108, R113, R114) -/

/-- The channel that domain d has left, with d back in STEADY: where its withdrawal plans from. -/
def State.withdrawn (s : State) (d : DomainId) : State :=
  (s.leaveConsent d).serveConsent.setDomain d { s.domain d with state := .steady }

theorem State.withdraw_eq_plan (s : State) (d : DomainId) : s.withdraw d = (s.withdrawn d).plan d :=
  s.withdraw_eq d

theorem State.withdrawn_domain (s : State) (d : DomainId) :
    (s.withdrawn d).domain d = { s.domain d with state := .steady } :=
  State.setDomain_domain_self ..

theorem State.withdrawn_park (s : State) (d : DomainId) : (s.withdrawn d).park = s.parkWithout (· = d) :=
  s.leaveConsent_serve_park d

/-- Leaving the channel changes nothing that a plan reads. -/
theorem State.withdrawn_plansAlike (hstate : (s.domain d).state ≠ .frozen) : s.PlansAlike d (s.withdrawn d) := by
  have hframe : s.withdrawn d = { (s.setDomain d { s.domain d with state := .steady }) with
      park := (s.leaveConsent d).serveConsent.park } := by
    rw [State.withdrawn, State.serveConsent_frame]
    rfl
  have hdomain := s.withdrawn_domain d
  constructor
  case quietTimer => rw [hdomain]
  case frozen => simp [hdomain, hstate]
  all_goals
    rw [hframe]
    intros
    rfl

/-- A withdrawal at the end of an event plans toward the target and leaves the channel to the others. -/
theorem State.withdraw_finish (hstate : (s.domain d).state = .consent) :
    s.PlansTo ((s.withdraw d).finish d) d (s.domain d).current (s.domain d).target ∧
    s.Told ((s.withdraw d).finish d) (s.planNotices d (s.domain d).current (s.domain d).target) ∧
    ((s.withdraw d).finish d).park = s.parkWithout (· = d) := by
  have hdomain := s.withdrawn_domain d
  have halike : s.PlansAlike d (s.withdrawn d) := State.withdrawn_plansAlike (by rw [hstate]; nofun)
  have hplans := State.plan_finish_plansTo (s := s.withdrawn d) (d := d) (by rw [hdomain]; nofun)
  have htold := (s.withdrawn d).plan_finish_told d
  rw [hdomain] at hplans htold
  rw [halike.planNotices] at htold
  rw [State.withdraw_eq_plan]
  refine ⟨halike.plansTo hplans, halike.told htold, ?_⟩
  rw [State.finish_park, State.plan_park, State.withdrawn_park]

/-- A domain that is withdrawn is in neither the queue nor the request. -/
theorem State.parkWithout_left {out : DomainId → Prop} [DecidablePred out] (hd : out d) :
    d ∉ (s.parkWithout out).queue ∧ ∀ x ∈ (s.parkWithout out).request, x.1 ≠ d := by
  have hqueue : d ∉ s.park.queue.filter fun e => ¬out e := by simp [hd]
  have hrequest : ∀ x ∈ s.park.request.filter fun x => ¬out x.1, x.1 ≠ d := by
    rintro x hx rfl
    simp [Option.filter_eq_some_iff, hd] at hx
  cases hq : s.park.queue.filter fun e => ¬out e with
  | nil =>
    simp only [State.parkWithout, hq]
    exact ⟨List.not_mem_nil, hrequest⟩
  | cons e rest =>
    rw [hq, List.mem_cons, not_or] at hqueue
    obtain ⟨hhead, hrest⟩ := hqueue
    simp only [State.parkWithout, hq]
    split
    · exact ⟨hrest, by simpa using Ne.symm hhead⟩
    · exact ⟨List.not_mem_cons_of_ne_of_not_mem hhead hrest, hrequest⟩

/-! ### SET-PARK (R122) -/

theorem exec_setPark (d : DomainId) (enable window policy : Byte) (s : State) :
    exec (.setPark d enable window policy) s = execSetPark d enable window policy s := rfl

/-- The state with the three settings of SET-PARK written. -/
def State.parkStored (s : State) (d : DomainId) (enable window policy : Byte) : State :=
  s.setConfig d { s.config d with
    park := enable = 1, window := window, policy := if policy = 1 then .park else .stay }

/-- The state that an accepted SET-PARK leaves at its block. -/
def State.parkSet (s : State) (d : DomainId) (enable window policy : Byte) : State :=
  if (s.domain d).state = .consent ∧ enable = 0 then ((s.parkStored d enable window policy).withdraw d).finish d
  else (s.parkStored d enable window policy).updateQuiet d

section SetPark
variable {enable window policy : Byte}

theorem State.setParkRequest_badArgument (hbad : enable.toNat > 1 ∨ policy.toNat > 1 ∨ window = 0) :
    s.setParkRequest d enable window policy = (s, .refuse .badArgument) :=
  if_pos hbad

theorem State.setParkRequest_sets (he : enable.toNat ≤ 1) (hp : policy.toNat ≤ 1) (hw : window ≠ 0) :
    s.setParkRequest d enable window policy = (s.parkSet d enable window policy,
      .ok (byte ((s.parkSet d enable window policy).domain d).state.number) 0 0 0 0 0) :=
  if_neg (by
    rintro (h | h | h)
    · exact Nat.not_lt.2 he h
    · exact Nat.not_lt.2 hp h
    · exact hw h)

theorem State.parkSet_withdraws (h : (s.domain d).state = .consent ∧ enable = 0) :
    s.parkSet d enable window policy = ((s.parkStored d enable window policy).withdraw d).finish d :=
  if_pos h

/-- Where it withdraws nothing, SET-PARK lets the quiet timer follow its four conditions (R78). -/
theorem State.parkSet_stores (h : ¬((s.domain d).state = .consent ∧ enable = 0)) :
    s.parkSet d enable window policy = (s.parkStored d enable window policy).setDomain d { s.domain d with
      quietTimer :=
        if (s.domain d).settled = true ∧ enable = 1 ∧ s.hasFloor d = false ∧ (s.domain d).force = none then
          some ((s.domain d).quietTimer.getD (window.toNat * 1000))
        else none } := by
  have hconfig : (s.parkStored d enable window policy).config d = { s.config d with
      park := enable = 1, window := window, policy := if policy = 1 then .park else .stay } :=
    State.setConfig_config_self ..
  have hdomain : (s.parkStored d enable window policy).domain d = s.domain d := rfl
  have hfloor : (s.parkStored d enable window policy).hasFloor d = s.hasFloor d := rfl
  have hafter : (s.parkStored d enable window policy).quietAfter d =
      if (s.domain d).settled = true ∧ enable = 1 ∧ s.hasFloor d = false ∧ (s.domain d).force = none then
        some ((s.domain d).quietTimer.getD (window.toNat * 1000))
      else none := by
    simp only [State.quietAfter, State.quiet, hconfig, hdomain, hfloor]
    refine if_congr ?_ rfl rfl
    simp [and_assoc]
  rw [State.parkSet, if_neg h, State.updateQuiet_eq, hafter, hdomain]

/-- SET-PARK keeps the frame of its domain but for the settings. -/
theorem State.DomainFrame.parkSet (s : State) (d : DomainId) (enable window policy : Byte) :
    (s.parkStored d enable window policy).DomainFrame d (s.parkSet d enable window policy) := by
  unfold State.parkSet
  split
  · exact (State.DomainFrame.withdraw _ d).trans (State.DomainFrame.finish _ d)
  · exact State.DomainFrame.updateQuiet _ d

theorem State.setPort_parkSet (p : PortId) (q : Port) :
    (s.setPort p q).parkSet d enable window policy = (s.parkSet d enable window policy).setPort p q := by
  have hstored : (s.setPort p q).parkStored d enable window policy =
      (s.parkStored d enable window policy).setPort p q := rfl
  simp only [State.parkSet, hstored, State.setPort_domain, State.setPort_withdraw, State.setPort_finish]
  split <;> rfl

/-- The settings of SET-PARK are nothing that a plan reads. -/
theorem State.parkStored_plansAlike (s : State) (d : DomainId) (enable window policy : Byte) :
    s.PlansAlike d (s.parkStored d enable window policy) where
  records := rfl
  boxes := rfl
  point := s.setConfig_point d d _
  assured := by
    rw [State.railOf, State.parkStored, State.setConfig_config_self]
    rfl
  quietTimer := rfl
  frozen := Iff.rfl

/-- Disabling park withdraws a domain in CONSENT, which plans toward its target (R113, R122). -/
theorem State.parkSet_consent (hstate : (s.domain d).state = .consent) (he : enable = 0) :
    s.PlansTo (s.parkSet d enable window policy) d (s.domain d).current (s.domain d).target ∧
    s.Told (s.parkSet d enable window policy) (s.planNotices d (s.domain d).current (s.domain d).target) ∧
    (s.parkSet d enable window policy).park = s.parkWithout (· = d) := by
  have halike := s.parkStored_plansAlike d enable window policy
  obtain ⟨hplans, htold, hpark⟩ := State.withdraw_finish (s := s.parkStored d enable window policy) hstate
  rw [halike.planNotices] at htold
  rw [State.parkSet_withdraws ⟨hstate, he⟩]
  exact ⟨halike.plansTo hplans, halike.told htold, hpark⟩

end SetPark

end Sys2Proof.Machine

/-! ### The statement -/

namespace Sys2Proof.ParkSetup

open Sys2Proof.Machine

/-- Settles O30, by whether the request withdraws its domain from the consent channel. -/
theorem setParkByState : Obligations.SetParkByState := by
  intro s d enable window policy rest hs
  simp only [exec_setPark, execSetPark]
  refine ⟨fun hbad => ?badArgument, fun he hp hw =>
    ⟨s.parkSet d enable window policy, ?answer, fun hstate hdisabled => ?withdrawn, fun hkept => ?stored⟩⟩
  case badArgument =>
    rw [State.serve_refused hs _ .badArgument (State.setParkRequest_badArgument hbad)]
    rfl
  case answer =>
    have hframe := State.DomainFrame.parkSet s d enable window policy
    rw [State.serve_answered hs _ (s.parkSet d enable window policy)
      (.ok (byte ((s.parkSet d enable window policy).domain d).state.number) 0 0 0 0 0)
      (by rw [State.setParkRequest_sets he hp hw, State.setPort_parkSet, State.setPort_domain])
      (congrArg (·[supervisor]) hframe.ports)]
    rfl
  case withdrawn =>
    obtain ⟨hplans, htold, hpark⟩ :=
      State.parkSet_consent (window := window) (policy := policy) hstate hdisabled
    obtain ⟨hqueue, hrequest⟩ := State.parkWithout_left (s := s) (out := (· = d)) rfl
    rw [hpark]
    exact ⟨State.DomainFrame.parkSet s d enable window policy, hplans, htold, rfl, hqueue, fun _ => hrequest⟩
  case stored => exact State.parkSet_stores hkept

end Sys2Proof.ParkSetup
end

section
/-! PROOFS. TAKE-NOTICE at the notice unit by the state of the requester's set and lost flag, the layout of the notice
that it returns, and with that the statement on TAKE-NOTICE. -/

namespace Sys2Proof.Machine

theorem exec_takeNotice (p : PortId) (s : State) : exec (.takeNotice p) s = execTakeNotice p s := rfl

/-! ### The three answers at the block (R144) -/

section TakeNotice
variable {s : State} {p : PortId}

theorem State.takeNoticeRequest_oldest {n : Notice} {ns : List Notice} (hset : (s.box p).pending = n :: ns) :
    s.takeNoticeRequest p =
      (s.setBox p ((s.box p).become { s.box p with pending := ns }), noticeReply ns.length n) := by
  simp only [State.takeNoticeRequest, hset]

theorem State.takeNoticeRequest_overflow (hset : (s.box p).pending = []) (hlost : (s.box p).lost = true) :
    s.takeNoticeRequest p = (s.setBox p ((s.box p).become { s.box p with lost := false }), overflowReply) := by
  simp only [State.takeNoticeRequest, hset, hlost, if_true]

theorem State.takeNoticeRequest_noNotice (hset : (s.box p).pending = []) (hlost : (s.box p).lost = false) :
    s.takeNoticeRequest p = (s, .refuse .noNotice) := by
  simp only [State.takeNoticeRequest, hset, hlost, Bool.false_eq_true, if_false]

end TakeNotice

/-! ### The layout of a notice (Table 10-9) -/

/-- Whatever its kind, a notice is returned with OK, the command code and the number of notices left. -/
theorem noticeReply_frame_ends (command : Byte) (remaining : Nat) (n : Notice) :
    ((noticeReply remaining n).frame command).b0 = 0x00 ∧ ((noticeReply remaining n).frame command).b1 = command ∧
      ((noticeReply remaining n).frame command).b7 = byte remaining := by
  cases n <;> exact ⟨rfl, rfl, rfl⟩

end Sys2Proof.Machine

/-! ### The statement -/

namespace Sys2Proof.NoticeUnit

open Sys2Proof.Machine

/-- Settles O23, by the set and the lost flag that the notice unit finds; the request on its way is in neither. -/
theorem takeNoticeThreeAnswers : Obligations.TakeNoticeThreeAnswers := by
  intro s p rest hs
  simp only [exec_takeNotice, execTakeNotice]
  refine ⟨fun n ns hset => ?oldest, fun hset hlost => ?overflow, fun hset hlost => ?noNotice⟩
  case oldest =>
    obtain ⟨hok, hcommand, hleft⟩ := noticeReply_frame_ends 0x28 ns.length n
    rw [State.serve_answered hs (·.takeNoticeRequest p)
      (s.setBox p ((s.box p).become { s.box p with pending := ns })) (noticeReply ns.length n)
      (State.takeNoticeRequest_oldest (s := s.setPort _ _) hset) rfl]
    refine ⟨(noticeReply ns.length n).frame 0x28, rfl, hok, hcommand, hleft, ?kinds⟩
    case kinds => cases n <;> rfl
  case overflow =>
    rw [State.serve_answered hs (·.takeNoticeRequest p)
      (s.setBox p ((s.box p).become { s.box p with lost := false })) overflowReply
      (State.takeNoticeRequest_overflow (s := s.setPort _ _) hset hlost) rfl]
    rfl
  case noNotice =>
    rw [State.serve_refused hs _ .noNotice (State.takeNoticeRequest_noNotice (s := s.setPort _ _) hset hlost)]
    rfl

end Sys2Proof.NoticeUnit
end

section
/-! PROOFS. What every operation of the domain, rail and park controllers leaves of the demand table and the notice
unit: records are reassessed and notices placed, and nothing is filed, retired or taken. -/

-- The proofs are elaborated one after another: side by side they would exceed the memory that the check allows.
set_option Elab.async false

namespace Sys2Proof.Machine

/-! ### Records reassessed in place -/

/-- `q` is record `r` with another status, acknowledged generation and last settled status; where it is IN_FORCE, its
generation is acknowledged, or it is as it was (R42). -/
def Record.Reassessed (r q : Record) : Prop :=
  ∃ status acknowledged lastSettled,
    q = { r with status := status, acknowledged := acknowledged, lastSettled := lastSettled } ∧
    (status = .inForce → acknowledged = r.generation ∨ (r.status = .inForce ∧ acknowledged = r.acknowledged))

theorem Record.Reassessed.refl (r : Record) : r.Reassessed r := ⟨_, _, _, rfl, fun h => .inr ⟨h, rfl⟩⟩

theorem Record.Reassessed.trans {r q w : Record} (h : r.Reassessed q) (k : q.Reassessed w) : r.Reassessed w := by
  obtain ⟨a, b, c, rfl, hr⟩ := h
  obtain ⟨a', b', c', rfl, hq⟩ := k
  refine ⟨a', b', c', rfl, fun hin => (hq hin).elim Or.inl fun ⟨hold, heq⟩ => ?_⟩
  exact (hr hold).imp heq.trans fun ⟨hr', hb⟩ => ⟨hr', heq.trans hb⟩

theorem Record.Reassessed.of_status {r : Record} {status : Status} (h : status ≠ .inForce) :
    r.Reassessed { r with status := status } := ⟨_, _, _, rfl, fun hin => absurd hin h⟩

theorem Record.reassessed_judge (r : Record) (v : Verdict) : r.Reassessed (r.judge v) := by
  cases v with
  | inForce => exact ⟨_, _, _, rfl, fun _ => .inl rfl⟩
  | clamped => exact ⟨_, _, _, rfl, fun h => nomatch h⟩

theorem Record.reassessed_unsettle (r : Record) : r.Reassessed r.unsettle := by
  unfold Record.unsettle
  split
  · exact .of_status (by decide)
  · exact .refl r

theorem Record.reassessed_unhold (r : Record) : r.Reassessed r.unhold := by
  unfold Record.unhold
  split
  · exact .of_status (by decide)
  · exact .refl r

/-! ### What an event outside the table keeps -/

/-- From `s` to `t` the table's records are at most reassessed, pending sets stay as R140 has them, and the phase, the
quotas, the settings, the ports and the commands that wait stay as they were. -/
structure State.TableKept (s t : State) : Prop where
  phase : t.phase = s.phase
  quotas : t.quotas = s.quotas
  setups : t.setups = s.setups
  ports : t.ports = s.ports
  sdo : t.sdo = s.sdo
  pending : t.pending = s.pending
  freed : ∀ h, s.record h = none → t.record h = none
  filed : ∀ h r, s.record h = some r → ∃ q, t.record h = some q ∧ r.Reassessed q
  boxes : ∀ p, (s.box p).Sound → (t.box p).Sound

theorem State.TableKept.trans {s t u : State} (h : s.TableKept t) (k : t.TableKept u) : s.TableKept u where
  phase := k.phase.trans h.phase
  quotas := k.quotas.trans h.quotas
  setups := k.setups.trans h.setups
  ports := k.ports.trans h.ports
  sdo := k.sdo.trans h.sdo
  pending := k.pending.trans h.pending
  freed x hx := k.freed x (h.freed x hx)
  filed x r hr := by
    obtain ⟨q, hq, hrq⟩ := h.filed x r hr
    obtain ⟨w, hw, hqw⟩ := k.filed x q hq
    exact ⟨w, hw, hrq.trans hqw⟩
  boxes p hp := k.boxes p (h.boxes p hp)

/-- Nothing but domains, rails, reports, notices on their way, the link, the park controller, the pins, the bus and the
count of free values differs. -/
theorem State.TableKept.of_blocks {s t : State} (hphase : t.phase = s.phase := by rfl)
    (hrecords : t.records = s.records := by rfl) (hquotas : t.quotas = s.quotas := by rfl)
    (hsetups : t.setups = s.setups := by rfl) (hboxes : t.boxes = s.boxes := by rfl)
    (hports : t.ports = s.ports := by rfl) (hsdo : t.sdo = s.sdo := by rfl)
    (hpending : t.pending = s.pending := by rfl) : s.TableKept t where
  phase := hphase
  quotas := hquotas
  setups := hsetups
  ports := hports
  sdo := hsdo
  pending := hpending
  freed h hn := by rw [State.record, hrecords]; exact hn
  filed h r hr := ⟨r, by rw [State.record, hrecords]; exact hr, .refl r⟩
  boxes p hp := by rw [State.box, hboxes]; exact hp

theorem State.TableKept.refl (s : State) : s.TableKept s := .of_blocks

theorem State.TableKept.foldl {α : Type} {f : State → α → State} (hf : ∀ (s : State) (a : α), s.TableKept (f s a))
    (xs : List α) (s : State) : s.TableKept (xs.foldl f s) := by
  induction xs generalizing s with
  | nil => exact .refl s
  | cons x xs ih => exact (hf s x).trans (ih _)

theorem State.TableKept.ite {s t u : State} {c : Prop} [Decidable c] (ht : s.TableKept t) (hu : s.TableKept u) :
    s.TableKept (if c then t else u) := by
  split
  · exact ht
  · exact hu

variable (s : State) (d : DomainId) (v : RailId)

/-! ### Changes of one block -/

theorem State.TableKept.setDomain (c : Domain) : s.TableKept (s.setDomain d c) := .of_blocks

theorem State.TableKept.setRail (r : Rail) : s.TableKept (s.setRail v r) := .of_blocks

theorem State.TableKept.raise (xs : List (PortId × Notice)) : s.TableKept (s.raise xs) := by
  rw [State.raise_eq]
  exact .of_blocks

theorem State.TableKept.mapRecordsOn {f : Record → Record} (hf : ∀ r : Record, r.Reassessed (f r)) :
    s.TableKept (s.mapRecordsOn d f) := by
  have hrec := s.mapRecordsOn_record d f
  refine ⟨rfl, rfl, rfl, rfl, rfl, rfl, fun h hn => by simp [hrec, hn], fun h r hr => ?_, fun p hp => hp⟩
  refine ⟨if r.domain = d then f r else r, by rw [hrec, hr]; rfl, ?_⟩
  split
  · exact hf r
  · exact .refl r

theorem State.TableKept.placeAll (xs : List (PortId × Notice)) : s.TableKept (s.placeAll xs) := by
  have hframe := s.placeAll_frame xs
  have hrec (h : Handle) : (s.placeAll xs).record h = s.record h := by rw [hframe]; rfl
  refine ⟨by rw [hframe], by rw [hframe], by rw [hframe], by rw [hframe], by rw [hframe], by rw [hframe],
    fun h hn => (hrec h).trans hn, fun h r hr => ⟨r, (hrec h).trans hr, .refl r⟩, fun p hp => ?_⟩
  rw [State.placeAll_box]
  exact List.foldlRecOn _ _ hp fun b hb n _ => hb.place n

/-! ### The domain controllers -/

theorem State.TableKept.evaluate (rule : Record → Option Verdict) : s.TableKept (s.evaluate d rule) := by
  refine (State.TableKept.mapRecordsOn s d fun r => ?_).trans (.placeAll _ _)
  cases rule r with
  | none => exact .refl r
  | some v => exact r.reassessed_judge v

theorem State.TableKept.unsettleRecords : s.TableKept (s.unsettleRecords d) :=
  .mapRecordsOn s d Record.reassessed_unsettle

theorem State.TableKept.unholdRecords : s.TableKept (s.unholdRecords d) :=
  .mapRecordsOn s d Record.reassessed_unhold

theorem State.TableKept.holdRecords : s.TableKept (s.holdRecords d) :=
  .mapRecordsOn s d fun _ => .of_status (by decide)

theorem State.TableKept.settle : s.TableKept (s.settle d) := (State.TableKept.setDomain s d _).trans (.evaluate _ d _)

theorem State.TableKept.startStep (state : DomainState) (l : Level) : s.TableKept (s.startStep d state l) :=
  .setDomain s d _

theorem State.TableKept.plan : s.TableKept (s.plan d) := by
  dsimp only [State.plan]
  refine .ite (.settle s d) ((State.TableKept.setDomain s d { s.domain d with settled := false }).trans
    ((State.TableKept.unsettleRecords _ d).trans ?_))
  exact .ite (.setDomain _ d _) (.startStep _ d _ _)

theorem State.TableKept.serveConsent : s.TableKept s.serveConsent := by
  rw [State.serveConsent_frame]
  exact .of_blocks

theorem State.TableKept.leaveConsent : s.TableKept (s.leaveConsent d) := .of_blocks

theorem State.TableKept.joinConsent : s.TableKept (s.joinConsent d) := by
  unfold State.joinConsent
  exact .ite (.refl s) .of_blocks

theorem State.TableKept.denied : s.TableKept (s.denied d) := (State.TableKept.setDomain s d _).trans (.plan _ d)

theorem State.TableKept.withdraw : s.TableKept (s.withdraw d) :=
  ((State.TableKept.leaveConsent s d).trans (.serveConsent _)).trans
    ((State.TableKept.setDomain _ d _).trans (.plan _ d))

theorem State.TableKept.granted : s.TableKept (s.granted d) := .setDomain s d _

theorem State.TableKept.checkRailStage : s.TableKept (s.checkRailStage d) := by
  unfold State.checkRailStage
  exact .ite (.setDomain s d _) (.refl s)

theorem State.TableKept.beginWake : s.TableKept (s.beginWake d) :=
  (State.TableKept.unsettleRecords s d).trans ((State.TableKept.setDomain _ d _).trans (.checkRailStage _ d))

theorem State.TableKept.enterParked : s.TableKept (s.enterParked d) :=
  (State.TableKept.setDomain s d _).trans (.evaluate _ d _)

theorem State.TableKept.enterClock : s.TableKept (s.enterClock d) := by
  unfold State.enterClock
  exact .ite (.setDomain s d _) (.startStep s d _ _)

theorem State.TableKept.act (old : Level) : s.TableKept (s.act d old) := by
  unfold State.act
  split
  case h_1 => exact .plan s d
  case h_2 => exact .ite (.refl s) (.plan s d)
  case h_4 => exact .ite (.withdraw s d) (.refl s)
  case h_6 => exact .ite (.beginWake s d) (.evaluate s d _)
  case h_7 => exact .checkRailStage s d
  all_goals exact .refl s

theorem State.TableKept.closeDomain : s.TableKept (s.closeDomain d) :=
  (State.TableKept.setDomain s d _).trans (.setDomain _ d _)

/-! ### The rails and the link -/

theorem State.TableKept.chooseRail : s.TableKept s.chooseRail := by
  rw [State.chooseRail_eq]
  exact .of_blocks

theorem State.TableKept.reevaluate : s.TableKept (s.reevaluate v) := by
  rw [State.reevaluate_eq]
  exact .of_blocks

theorem State.TableKept.finish : s.TableKept (s.finish d) :=
  (State.TableKept.closeDomain s d).trans (.reevaluate _ _)

theorem State.TableKept.reresolve : s.TableKept (s.reresolve d) :=
  ((State.TableKept.setDomain s d _).trans (.act _ d _)).trans (.finish _ d)

theorem State.TableKept.noteAssured (t : State) : t.TableKept (State.noteAssured v s t) := by
  rw [State.noteAssured_eq]
  exact .of_blocks

theorem State.TableKept.reevaluateBoth (w : RailId) : s.TableKept (s.reevaluateBoth v w) := by
  obtain ⟨elected, choices, h⟩ := s.reevaluateBoth_eq v w
  rw [h]
  exact .of_blocks

/-! ### Fault handling -/

theorem State.TableKept.freeze : s.TableKept (s.freeze d) := by
  rw [State.freeze_eq]
  exact (State.TableKept.setDomain s d _).trans (.holdRecords _ d)

theorem State.TableKept.switchOff : s.TableKept (s.switchOff d) :=
  (State.TableKept.setDomain s d _).trans (.holdRecords _ d)

theorem State.TableKept.fallbackCheck : s.TableKept (s.fallbackCheck v) := by
  unfold State.fallbackCheck
  exact .ite ((State.TableKept.setRail s v _).trans (.chooseRail _)) (.refl s)

theorem State.TableKept.disregard : s.TableKept (s.disregard v) := by
  rw [State.disregard_eq]
  exact .of_blocks

theorem State.TableKept.enterFallback (cause : RailCause) : s.TableKept (s.enterFallback v cause) := by
  dsimp only [State.enterFallback]
  refine .trans (.trans (.trans ?_ (.foldl State.TableKept.freeze _ _)) (.reevaluate _ v)) (.fallbackCheck _ v)
  refine .trans (.trans (.trans ?_ (.foldl State.TableKept.leaveConsent _ _)) (.serveConsent _)) (.raise _ _)
  exact ((State.TableKept.setRail s v _).trans (.disregard _ v)).trans (.chooseRail _)

theorem State.TableKept.enterShutdown (cause : RailCause) : s.TableKept (s.enterShutdown v cause) := by
  dsimp only [State.enterShutdown]
  refine .trans (.trans (.trans ?_ (.raise _ _)) (.foldl State.TableKept.switchOff _ _)) (.reevaluate _ v)
  exact (State.TableKept.setRail s v _).trans (.chooseRail _)

theorem State.TableKept.commandFails (cause : RailCause) : s.TableKept (s.commandFails v cause) := by
  unfold State.commandFails
  exact .ite (.enterShutdown s v cause) (.enterFallback s v cause)

theorem State.TableKept.commandSucceeds (code : Byte) : s.TableKept (s.commandSucceeds v code) :=
  (State.TableKept.setRail s v _).trans (.reevaluate _ v)

theorem State.TableKept.outcomeByPg (code : Byte) : s.TableKept (s.outcomeByPg v code) := by
  unfold State.outcomeByPg
  exact .ite (.commandSucceeds s v code) (.commandFails s v _)

theorem State.TableKept.accepted (code : Byte) (tries : Try) : s.TableKept (s.accepted v code tries) := by
  unfold State.accepted
  exact .ite (.setRail s v _) (.outcomeByPg s v code)

theorem State.TableKept.tryFails (t : Transfer) (cause : RailCause) : s.TableKept (s.tryFails t cause) := by
  unfold State.tryFails
  cases t.tries with
  | one => exact .of_blocks
  | two => exact .commandFails s t.rail cause

theorem State.TableKept.releaseDomain : s.TableKept (s.releaseDomain d) := by
  have hfree : s.TableKept ((s.setDomain d { s.domain d with cause := .none }).resolve d) := .of_blocks
  dsimp only [State.releaseDomain]
  refine .trans (hfree.trans (.unholdRecords _ d)) (.trans (.ite (.ite (.beginWake _ d) (.enterParked _ d)) ?_)
    (.closeDomain _ d))
  exact .trans (State.TableKept.setDomain _ d { State.domain _ d with state := .steady }) (.plan _ d)

theorem State.TableKept.inFreeOrder (ds : List DomainId) : s.TableKept (s.inFreeOrder ds).2 := by
  unfold State.inFreeOrder
  split
  · exact .refl s
  · exact .of_blocks

theorem State.TableKept.clearRail : s.TableKept (s.clearRail v).1 :=
  ((State.TableKept.setRail s v _).trans (.inFreeOrder _ _)).trans
    ((State.TableKept.foldl State.TableKept.releaseDomain _ _).trans (.reevaluate _ v))

end Sys2Proof.Machine
end

section
/-! PROOFS. What one step does to the demand table and the pending sets, row by row, and what every request leaves alone. -/

-- The proofs are elaborated one after another: side by side they would exceed the memory that the check allows.
set_option Elab.async false

namespace Sys2Proof.Machine

/-! ### Records rewritten, filed and retired -/

/-- A record as a request or event leaves it: its key stays, and its lease and its generations stay in their ranges. -/
structure Record.Rewritten (r q : Record) : Prop where
  owner : q.owner = r.owner
  domain : q.domain = r.domain
  cls : q.cls = r.cls
  lease : (∀ t ∈ r.lease, 1 ≤ t.remaining ∧ t.remaining ≤ 65535) → ∀ t ∈ q.lease, 1 ≤ t.remaining ∧ t.remaining ≤ 65535
  generation : (r.generation ≠ 0 ∧ (r.status = .inForce → r.acknowledged = r.generation)) →
    q.generation ≠ 0 ∧ (q.status = .inForce → q.acknowledged = q.generation)

theorem Record.Rewritten.refl (r : Record) : r.Rewritten r := ⟨rfl, rfl, rfl, id, id⟩

theorem Record.Reassessed.rewritten {r q : Record} (h : r.Reassessed q) : r.Rewritten q := by
  obtain ⟨status, acknowledged, lastSettled, rfl, hack⟩ := h
  exact ⟨rfl, rfl, rfl, id, fun ⟨hgen, hr⟩ =>
    ⟨hgen, fun hin => (hack hin).elim id fun ⟨hold, heq⟩ => heq.trans (hr hold)⟩⟩

/-- A lease argument gives no lease, or one of 1 to 65535 ms. -/
theorem leaseOf_shown (argument : BitVec 16) : ∀ t ∈ leaseOf argument, 1 ≤ t.remaining ∧ t.remaining ≤ 65535 := by
  intro t ht
  unfold leaseOf at ht
  split at ht
  · cases ht
  · next hne =>
    obtain rfl := Option.some.inj ht
    have hpos : argument.toNat ≠ 0 := fun h0 => hne (BitVec.eq_of_toNat_eq h0)
    have hlt := argument.isLt
    dsimp only
    omega

theorem nextGeneration_ne_zero (g : Byte) : nextGeneration g ≠ 0 := by
  unfold nextGeneration
  split
  · decide
  · next h => bv_omega

theorem Record.rewritten_elapse (r : Record) : r.Rewritten { r with lease := r.lease.map Lease.elapse } := by
  refine ⟨rfl, rfl, rfl, fun h t ht => ?_, id⟩
  obtain ⟨l, hl, rfl⟩ := Option.mem_map.1 ht
  have hshown := h l hl
  unfold Lease.elapse
  split
  · exact hshown
  · dsimp only
    omega

theorem Record.rewritten_replaced (r : Record) (level : Level) (lease : BitVec 16) (tag : Byte) {status : Status}
    (h : status ≠ .inForce) : r.Rewritten (r.replaced level lease tag status) :=
  ⟨rfl, rfl, rfl, fun _ => leaseOf_shown lease, fun _ => ⟨nextGeneration_ne_zero _, fun hin => absurd hin h⟩⟩

theorem State.startStatus_ne_inForce (s : State) (d : DomainId) : s.startStatus d ≠ .inForce := by
  unfold State.startStatus
  split <;> decide

/-! ### What a step keeps of the table and the pending sets -/

/-- From `s` to `t` every relation of the demand table that reads the table alone is kept, and the pending sets stay as
R140 has them. -/
structure State.TableStep (s t : State) : Prop where
  keys : s.KeysUnique → t.KeysUnique
  setup : s.SetupEmpty → t.SetupEmpty
  quotas : s.QuotasKept → t.QuotasKept
  leases : s.LeasesShown → t.LeasesShown
  generations : s.GenerationsSound → t.GenerationsSound
  boxes : s.BoxesSound → t.BoxesSound

theorem State.TableStep.refl (s : State) : s.TableStep s := ⟨id, id, id, id, id, id⟩

theorem State.TableStep.trans {s t u : State} (h : s.TableStep t) (k : t.TableStep u) : s.TableStep u :=
  ⟨k.keys ∘ h.keys, k.setup ∘ h.setup, k.quotas ∘ h.quotas, k.leases ∘ h.leases, k.generations ∘ h.generations,
    k.boxes ∘ h.boxes⟩

/-- No record is gained, and those that stay are rewritten in place. -/
theorem State.TableStep.of_rewritten {s t : State} (hphase : t.phase = s.phase) (hquotas : t.quotas = s.quotas)
    (hrec : ∀ h q, t.record h = some q → ∃ r, s.record h = some r ∧ r.Rewritten q)
    (hboxes : s.BoxesSound → t.BoxesSound) : s.TableStep t where
  keys hs h k r hr q hq ho hd hc := by
    obtain ⟨r', hr', e⟩ := hrec h r hr
    obtain ⟨q', hq', e'⟩ := hrec k q hq
    exact hs h k r' hr' q' hq' (e.owner ▸ e'.owner ▸ ho) (e.domain ▸ e'.domain ▸ hd) (e.cls ▸ e'.cls ▸ hc)
  setup hs hsetup h := by
    refine Option.eq_none_iff_forall_ne_some.2 fun q hq => ?_
    obtain ⟨r, hr, -⟩ := hrec h q hq
    rw [hs (hphase ▸ hsetup) h] at hr
    cases hr
  quotas hs p := by
    have hquota : t.quota p = s.quota p := by rw [State.quota, hquotas]; rfl
    refine ⟨hquota ▸ (State.liveCount_le p fun k q hq ho => ?_).trans (hs p).1, hquota ▸ (hs p).2⟩
    obtain ⟨r, hr, e⟩ := hrec k q hq
    exact ⟨r, hr, e.owner ▸ ho⟩
  leases hs h q hq := by
    obtain ⟨r, hr, e⟩ := hrec h q hq
    exact e.lease (hs h r hr)
  generations hs h q hq := by
    obtain ⟨r, hr, e⟩ := hrec h q hq
    exact e.generation (hs h r hr)
  boxes := hboxes

/-- Nothing of the table is read or written. -/
theorem State.TableStep.of_blocks {s t : State} (hphase : t.phase = s.phase := by rfl)
    (hrecords : t.records = s.records := by rfl) (hquotas : t.quotas = s.quotas := by rfl)
    (hboxes : t.boxes = s.boxes := by rfl) : s.TableStep t :=
  .of_rewritten hphase hquotas
    (fun h q hq => ⟨q, by rw [State.record, hrecords] at hq; exact hq, .refl q⟩)
    (fun hs p => by rw [State.box, hboxes]; exact hs p)

theorem State.TableKept.tableStep {s t : State} (h : s.TableKept t) : s.TableStep t := by
  refine .of_rewritten h.phase h.quotas (fun k q hq => ?_) fun hs p => h.boxes p (hs p)
  cases hr : s.record k with
  | none => rw [h.freed k hr] at hq; cases hq
  | some r =>
    obtain ⟨q', hq', hre⟩ := h.filed k r hr
    obtain rfl := Option.some.inj (hq'.symm.trans hq)
    exact ⟨r, rfl, hre.rewritten⟩

/-- Records leave the table, and the others stay as they are. -/
theorem State.TableStep.of_fewer {s t : State} (hphase : t.phase = s.phase) (hquotas : t.quotas = s.quotas)
    (hrec : ∀ h q, t.record h = some q → s.record h = some q) (hboxes : s.BoxesSound → t.BoxesSound) : s.TableStep t :=
  .of_rewritten hphase hquotas (fun h q hq => ⟨q, hrec h q hq, .refl q⟩) hboxes

theorem State.TableStep.setRecord {s : State} {h : Handle} {r q : Record} (hr : s.record h = some r)
    (hq : r.Rewritten q) : s.TableStep (s.setRecord h (some q)) := by
  refine .of_rewritten rfl rfl (fun k w hw => ?_) id
  rw [State.setRecord_record] at hw
  split at hw
  · next e =>
    obtain rfl := Option.some.inj hw
    exact ⟨r, e ▸ hr, hq⟩
  · exact ⟨w, hw, .refl w⟩

theorem State.TableStep.setBox (s : State) (p : PortId) {b : Box} (hb : (s.box p).Sound → b.Sound) :
    s.TableStep (s.setBox p b) :=
  .of_fewer rfl rfl (fun _ _ hq => hq) fun hs => hs.setBox (hb (hs p))

theorem State.TableStep.retire (s : State) (h : Handle) : s.TableStep (s.retire h) := by
  have hframe := s.retire_frame h
  refine .of_fewer (by rw [hframe]) (by rw [hframe]) (fun k q hq => ?_) fun hs => hs.retire h
  rw [State.retire_record] at hq
  split at hq
  · cases hq
  · exact hq

theorem State.TableStep.retireNotified (s : State) (h : Handle) : s.TableStep (s.retireNotified h) := by
  have hframe := s.retireNotified_frame h
  refine .of_fewer (by rw [hframe]) (by rw [hframe]) (fun k q hq => ?_) fun hs => hs.retireNotified h
  rw [State.retireNotified_record] at hq
  split at hq
  · cases hq
  · exact hq

theorem State.TableStep.retireSelected {out : State → Handle → State}
    (hout : ∀ (s : State) (h : Handle), s.TableStep (out s h)) (s : State) (gone : List (Handle × Record)) :
    s.TableStep (s.retireSelected out gone) := by
  have hfold : s.TableStep ((gone.map Prod.fst).foldl out s) :=
    List.foldlRecOn _ _ (.refl s) fun t ht h _ => ht.trans (hout t h)
  exact hfold.trans .of_blocks

/-- A record of a new key is filed in RUN, within the quota. -/
theorem State.TableStep.create {s : State} {h : Handle} {r : Record} (hrun : s.phase ≠ .setup)
    (hkey : s.NoKey r.owner r.domain r.cls) (hquota : s.liveCount r.owner < s.quota r.owner) (hfree : s.record h = none)
    (hlease : ∀ t ∈ r.lease, 1 ≤ t.remaining ∧ t.remaining ≤ 65535) (hgen : r.generation ≠ 0)
    (hstatus : r.status ≠ .inForce) : s.TableStep (s.setRecord h (some r)) := by
  have hrec (k : Handle) (q : Record) (hq : (s.setRecord h (some r)).record k = some q) :
      (k = h ∧ q = r) ∨ s.record k = some q := by
    rw [State.setRecord_record] at hq
    split at hq
    · next e => exact .inl ⟨e, (Option.some.inj hq).symm⟩
    · exact .inr hq
  constructor
  case keys =>
    intro hs k l q hq w hw ho hd hc
    rcases hrec k q hq with ⟨rfl, rfl⟩ | hq' <;> rcases hrec l w hw with ⟨rfl, rfl⟩ | hw'
    · rfl
    · exact absurd ⟨ho.symm, hd.symm, hc.symm⟩ (hkey l w hw')
    · exact absurd ⟨ho, hd, hc⟩ (hkey k q hq')
    · exact hs k l q hq' w hw' ho hd hc
  case setup => exact fun _ hsetup => absurd hsetup hrun
  case quotas =>
    intro hs p
    refine ⟨?_, (hs p).2⟩
    rw [State.liveCount_setRecord_new hfree, State.setRecord_quota]
    split
    · next e => subst e; omega
    · exact (hs p).1
  case leases =>
    intro hs k q hq
    rcases hrec k q hq with ⟨-, rfl⟩ | hq'
    · exact hlease
    · exact hs k q hq'
  case generations =>
    intro hs k q hq
    rcases hrec k q hq with ⟨-, rfl⟩ | hq'
    · exact ⟨hgen, fun hin => absurd hin hstatus⟩
    · exact hs k q hq'
  case boxes => exact id

/-! ### What a request leaves alone -/

/-- What the owning block makes of a request: no port and no command that waits is touched, the table's relations are
kept, and of the ports it reads at most which of them are present. -/
structure BlockBody (body : State → State × Reply) : Prop where
  ports : ∀ t : State, (body t).1.ports = t.ports
  pending : ∀ t : State, (body t).1.pending = t.pending
  table : ∀ t : State, t.TableStep (body t).1
  blind : ∀ (t : State) (p : PortId) (q : Port), q.present = (t.port p).present →
    body (t.setPort p q) = ((body t).1.setPort p q, (body t).2)

/-- The same of a write that a block makes. -/
structure BlockWrite (write : State → State) : Prop where
  ports : ∀ t : State, (write t).ports = t.ports
  pending : ∀ t : State, (write t).pending = t.pending
  table : ∀ t : State, t.TableStep (write t)
  blind : ∀ (t : State) (p : PortId) (q : Port), write (t.setPort p q) = (write t).setPort p q

theorem BlockWrite.comp {f g : State → State} (hg : BlockWrite g) (hf : BlockWrite f) : BlockWrite fun t => g (f t) :=
  ⟨fun t => (hg.ports _).trans (hf.ports t), fun t => (hg.pending _).trans (hf.pending t),
    fun t => (hf.table t).trans (hg.table _), fun t p q => by rw [hf.blind, hg.blind]⟩

theorem BlockWrite.of_kept {f : State → State} (hkept : ∀ t : State, t.TableKept (f t))
    (hblind : ∀ (t : State) (p : PortId) (q : Port), f (t.setPort p q) = (f t).setPort p q) : BlockWrite f :=
  ⟨fun t => (hkept t).ports, fun t => (hkept t).pending, fun t => (hkept t).tableStep, hblind⟩

/-- A block that reads, and answers with what it finds. -/
theorem BlockBody.read {reply : State → Reply} (h : ∀ (t : State) (p : PortId) (q : Port),
    q.present = (t.port p).present → reply (t.setPort p q) = reply t) : BlockBody fun t => (t, reply t) :=
  ⟨fun _ => rfl, fun _ => rfl, fun t => .refl t, fun t p q hq => by rw [h t p q hq]⟩

theorem BlockBody.refuse (code : StatusCode) : BlockBody fun t => (t, .refuse code) := .read fun _ _ _ _ => rfl

/-- A block that writes, and answers with what it then finds. -/
theorem BlockBody.write {f : State → State} {reply : State → Reply} (hf : BlockWrite f)
    (h : ∀ (t : State) (p : PortId) (q : Port), reply (t.setPort p q) = reply t) :
    BlockBody fun t => (f t, reply t) :=
  ⟨hf.ports, hf.pending, hf.table, fun t p q _ => by rw [h, hf.blind]⟩

/-- A check that does not read the ports decides between two bodies. -/
theorem BlockBody.ite {c : State → Prop} [∀ t, Decidable (c t)] {a b : State → State × Reply} (ha : BlockBody a)
    (hb : BlockBody b) (hc : ∀ (t : State) (p : PortId) (q : Port), c (t.setPort p q) ↔ c t := by intros; rfl) :
    BlockBody fun t => if c t then a t else b t where
  ports t := by split; exacts [ha.ports t, hb.ports t]
  pending t := by split; exacts [ha.pending t, hb.pending t]
  table t := by split; exacts [ha.table t, hb.table t]
  blind t p q hq := by
    simp only [hc]
    split
    exacts [ha.blind t p q hq, hb.blind t p q hq]

/-! ### The demand table -/

/-- FILE is refused, or replaces the record of its key, or creates one (R10). -/
theorem State.fileRequest_cases (s : State) (p : PortId) (d : DomainId) (cls : DemandClass) (level : Level)
    (lease : BitVec 16) (tag : Byte) :
    (∃ code, s.fileRequest p d cls level lease tag = (s, .refuse code)) ∨
    (∃ h r, s.findKey p d cls = some (h, r) ∧ s.fileRequest p d cls level lease tag =
      (((s.setRecord h (some (r.replaced level lease tag (s.startStatus d)))).dropStanding p h).report d h .replaced,
        .ok (byte h) (nextGeneration r.generation) 0 0 0 0)) ∨
    (∃ h, s.phase ≠ .setup ∧ s.findKey p d cls = none ∧ s.liveCount p < s.quota p ∧ s.lowestFree = some h ∧
      s.fileRequest p d cls level lease tag =
        (s.createRecord p d cls level lease tag h, .ok (byte h) 1 0 0 0 0)) := by
  unfold State.fileRequest
  split
  · exact .inl ⟨_, rfl⟩
  · next hphase =>
    split
    · next h r hfind => exact .inr (.inl ⟨h, r, hfind, rfl⟩)
    · next hfind =>
      split
      · exact .inl ⟨_, rfl⟩
      · next hquota =>
        split
        · exact .inl ⟨_, rfl⟩
        · next h hfree => exact .inr (.inr ⟨h, hphase, hfind, not_le.1 hquota, hfree, rfl⟩)

theorem State.TableStep.reportCreated (s : State) (d : DomainId) (cls : DemandClass) (h : Handle) :
    s.TableStep (s.reportCreated d cls h) := by
  unfold State.reportCreated
  split
  · exact (State.TableKept.reresolve s d).tableStep
  · exact .of_blocks

theorem State.TableStep.replace {s : State} {p : PortId} {d : DomainId} {cls : DemandClass} {h : Handle} {r : Record}
    (hfind : s.findKey p d cls = some (h, r)) (level : Level) (lease : BitVec 16) (tag : Byte) :
    s.TableStep (((s.setRecord h (some (r.replaced level lease tag (s.startStatus d)))).dropStanding p h).report d h
      .replaced) := by
  have hr := (State.record_of_findKey hfind).1
  refine (State.TableStep.setRecord hr (r.rewritten_replaced level lease tag (s.startStatus_ne_inForce d))).trans ?_
  exact (State.TableStep.setBox _ p fun hb => hb.dropStanding h).trans .of_blocks

theorem State.TableStep.createRecord {s : State} {p : PortId} {d : DomainId} {cls : DemandClass} {h : Handle}
    (hrun : s.phase ≠ .setup) (hfind : s.findKey p d cls = none) (hquota : s.liveCount p < s.quota p)
    (hfree : s.lowestFree = some h) (level : Level) (lease : BitVec 16) (tag : Byte) :
    s.TableStep (s.createRecord p d cls level lease tag h) :=
  (State.TableStep.create hrun (State.findKey_eq_none.1 hfind) hquota (State.lowestFree_eq_some.1 hfree).1
    (leaseOf_shown lease) (show (1 : Byte) ≠ 0 by decide) (s.startStatus_ne_inForce d)).trans (.reportCreated _ d cls h)

theorem State.reportCreated_outside (s : State) (d : DomainId) (cls : DemandClass) (h : Handle) :
    (s.reportCreated d cls h).ports = s.ports ∧ (s.reportCreated d cls h).pending = s.pending := by
  unfold State.reportCreated
  split
  · exact ⟨(State.TableKept.reresolve s d).ports, (State.TableKept.reresolve s d).pending⟩
  · exact ⟨rfl, rfl⟩

theorem State.createRecord_outside (s : State) (p : PortId) (d : DomainId) (cls : DemandClass) (level : Level)
    (lease : BitVec 16) (tag : Byte) (h : Handle) : (s.createRecord p d cls level lease tag h).ports = s.ports ∧
      (s.createRecord p d cls level lease tag h).pending = s.pending :=
  State.reportCreated_outside (s.setRecord h _) d cls h

theorem State.fileRequest_outside (s : State) (p : PortId) (d : DomainId) (cls : DemandClass) (level : Level)
    (lease : BitVec 16) (tag : Byte) : (s.fileRequest p d cls level lease tag).1.ports = s.ports ∧
      (s.fileRequest p d cls level lease tag).1.pending = s.pending := by
  rcases s.fileRequest_cases p d cls level lease tag with ⟨_, e⟩ | ⟨_, _, _, e⟩ | ⟨h, _, _, _, _, e⟩ <;> rw [e]
  · exact ⟨rfl, rfl⟩
  · exact ⟨rfl, rfl⟩
  · exact s.createRecord_outside p d cls level lease tag h

theorem BlockBody.file (p : PortId) (d : DomainId) (cls : DemandClass) (level : Level) (lease : BitVec 16)
    (tag : Byte) : BlockBody fun t => t.fileRequest p d cls level lease tag where
  ports t := (t.fileRequest_outside p d cls level lease tag).1
  pending t := (t.fileRequest_outside p d cls level lease tag).2
  table t := by
    rcases t.fileRequest_cases p d cls level lease tag with ⟨_, e⟩ | ⟨_, _, hfind, e⟩ | ⟨h, hrun, hfind, hq, hfree, e⟩ <;>
      rw [e]
    · exact .refl t
    · exact .replace hfind level lease tag
    · exact .createRecord hrun hfind hq hfree level lease tag
  blind t o q _ := by
    have hcreate (h : Handle) : (t.setPort o q).createRecord p d cls level lease tag h =
        (t.createRecord p d cls level lease tag h).setPort o q := by
      dsimp only [State.createRecord]
      rw [State.setPort_startStatus, State.setPort_setRecord, State.setPort_reportCreated]
    unfold State.fileRequest
    simp only [State.setPort_findKey, State.setPort_liveCount, State.setPort_lowestFree, hcreate]
    split
    · next hphase => rw [if_pos (show t.phase = .setup from hphase)]
    · next hphase =>
      rw [if_neg (show t.phase ≠ .setup from hphase)]
      cases t.findKey p d cls with
      | some x => rfl
      | none =>
        dsimp only
        split
        · next hq => rw [if_pos (show t.quota p ≤ t.liveCount p from hq)]
        · next hq =>
          rw [if_neg (show ¬t.quota p ≤ t.liveCount p from hq)]
          cases t.lowestFree <;> rfl

/-- A request that writes the requester's own record, or refuses. -/
theorem BlockBody.ownRecord {p : PortId} {h : Handle} {write : Record → State → State} {reply : Record → Reply}
    (hwrite : ∀ (r : Record) (t : State), (write r t).ports = t.ports ∧ (write r t).pending = t.pending)
    (htable : ∀ (r : Record) (t : State), t.record h = some r → t.TableStep (write r t))
    (hblind : ∀ (r : Record) (t : State) (o : PortId) (q : Port), write r (t.setPort o q) = (write r t).setPort o q) :
    BlockBody fun t => t.onOwnRecord p h fun r => (write r t, reply r) where
  ports t := by
    unfold State.onOwnRecord
    split
    · rfl
    · split
      exacts [(hwrite _ t).1, rfl]
  pending t := by
    unfold State.onOwnRecord
    split
    · rfl
    · split
      exacts [(hwrite _ t).2, rfl]
  table t := by
    unfold State.onOwnRecord
    split
    · exact .refl t
    · next hr =>
      split
      exacts [htable _ t hr, .refl t]
  blind t o q _ := by
    unfold State.onOwnRecord
    simp only [State.setPort_record]
    cases t.record h with
    | none => rfl
    | some r =>
      dsimp only
      split
      · rw [hblind]
      · rfl

theorem State.retire_outside (s : State) (h : Handle) : (s.retire h).ports = s.ports ∧ (s.retire h).pending = s.pending := by
  rw [s.retire_frame h]
  exact ⟨rfl, rfl⟩

theorem State.retireNotified_outside (s : State) (h : Handle) :
    (s.retireNotified h).ports = s.ports ∧ (s.retireNotified h).pending = s.pending := by
  rw [s.retireNotified_frame h]
  exact ⟨rfl, rfl⟩

/-- A record is retired with a notice to its owner and a report to its domain's controller (R16, R21). -/
def State.expel (s : State) (h : Handle) (r : Record) (n : Notice) : State :=
  ((s.retireNotified h).raise [(r.owner, n)]).report r.domain h .retired

theorem State.TableStep.expel (s : State) (h : Handle) (r : Record) (n : Notice) : s.TableStep (s.expel h r n) :=
  ((State.TableStep.retireNotified s h).trans (State.TableKept.raise _ _).tableStep).trans .of_blocks

theorem BlockBody.evictHandle (arg : FormArg Handle) : BlockBody fun t =>
    match arg with
    | .otherForm _ => (t, .refuse .badArgument)
    | .number h =>
      match t.record h with
      | none => (t, .refuse .noHandle)
      | some r => (t.expel h r (.evicted h r.tag), .ok (byte r.owner) 1 0 0 0 0) := by
  cases arg with
  | otherForm form => exact .refuse _
  | number h =>
    constructor
    case ports =>
      intro t
      dsimp only
      split
      exacts [rfl, (State.retireNotified_outside t h).1]
    case pending =>
      intro t
      dsimp only
      split
      exacts [rfl, (State.retireNotified_outside t h).2]
    case table =>
      intro t
      dsimp only
      split
      exacts [.refl t, .expel t h _ _]
    case blind =>
      intro t o q _
      dsimp only
      rw [State.setPort_record]
      cases t.record h with
      | none => rfl
      | some r =>
        dsimp only [State.expel]
        rw [State.setPort_retireNotified, State.setPort_raise, State.setPort_report]

theorem State.retireSelected_outside {out : State → Handle → State}
    (hf : ∀ s h, out s h = { s with records := (out s h).records, boxes := (out s h).boxes }) (s : State)
    (gone : List (Handle × Record)) :
    (s.retireSelected out gone).ports = s.ports ∧ (s.retireSelected out gone).pending = s.pending := by
  rw [State.retireSelected_eq hf]
  exact ⟨rfl, rfl⟩

theorem BlockBody.evictPort (p : PortId) : BlockBody fun t =>
    ((t.retireSelected State.retireNotified (t.live.filter fun x => x.2.owner = p)).raise
      ((t.live.filter fun x => x.2.owner = p).map fun x => (p, .evicted x.1 x.2.tag)),
      .ok 0 (byte (t.live.filter fun x => x.2.owner = p).length) 0 0 0 0) := by
  refine .write ⟨fun t => ?ports, fun t => ?pending, fun t => ?table, fun t o q => ?blind⟩ fun _ _ _ => rfl
  case ports =>
    exact (State.TableKept.raise _ _).ports.trans (State.retireSelected_outside State.retireNotified_frame t _).1
  case pending =>
    exact (State.TableKept.raise _ _).pending.trans (State.retireSelected_outside State.retireNotified_frame t _).2
  case table =>
    exact (State.TableStep.retireSelected State.TableStep.retireNotified t _).trans
      (State.TableKept.raise _ _).tableStep
  case blind =>
    rw [State.setPort_live, State.setPort_retireSelected _ _ _ (State.setPort_retireNotified · o q), State.setPort_raise]

theorem State.emptyAgentBoxes_box (s : State) (p : PortId) :
    s.emptyAgentBoxes.box p = if p = supervisor then s.box p else (s.box p).become resetBox := by
  simp [State.emptyAgentBoxes, State.box]

theorem State.TableStep.emptyAgentBoxes (s : State) : s.TableStep s.emptyAgentBoxes := by
  refine .of_fewer rfl rfl (fun _ _ hq => hq) fun hs p => ?_
  rw [State.emptyAgentBoxes_box]
  split
  · exact hs p
  · exact (Box.Sound.empty false [] 0).congr rfl

theorem BlockBody.restart : BlockBody fun t =>
    ((t.retireSelected State.retire t.live).emptyAgentBoxes, .ok (byte t.live.length) 0 0 0 0 0) := by
  refine .write ⟨fun t => (State.retireSelected_outside State.retire_frame t _).1,
    fun t => (State.retireSelected_outside State.retire_frame t _).2, fun t => ?table, fun t o q => ?blind⟩
    fun _ _ _ => rfl
  case table => exact (State.TableStep.retireSelected State.TableStep.retire t _).trans (.emptyAgentBoxes _)
  case blind =>
    rw [State.setPort_live, State.setPort_retireSelected _ _ _ (State.setPort_retire · o q)]
    rfl

theorem State.TableStep.setQuota {s : State} {p : PortId} {n : Nat} (hlimit : n ≤ 64) (hlive : s.liveCount p ≤ n) :
    s.TableStep (s.setQuota p n) := by
  refine ⟨id, id, fun hs o => ?_, id, id, id⟩
  rw [State.setQuota_quota]
  split
  · next e => exact ⟨e ▸ hlive, hlimit⟩
  · exact hs o

theorem BlockBody.setQuota (p : PortId) (quota : Byte) : BlockBody fun t =>
    if quota.toNat > Config.quotaLimit then (t, .refuse .badArgument)
    else if quota.toNat < t.liveCount p then (t, .refuse .quotaInUse)
    else (t.setQuota p quota.toNat, .ok (byte (t.liveCount p)) 0 0 0 0 0) where
  ports t := by split <;> [rfl; (split <;> rfl)]
  pending t := by split <;> [rfl; (split <;> rfl)]
  table t := by
    split
    · exact .refl t
    · next hlimit =>
      split
      · exact .refl t
      · next hlive => exact .setQuota (not_lt.1 hlimit) (not_lt.1 hlive)
  blind t o q _ := by
    rw [State.setPort_liveCount]
    by_cases hlimit : quota.toNat > Config.quotaLimit
    · rw [if_pos hlimit, if_pos hlimit]
    · rw [if_neg hlimit, if_neg hlimit]
      by_cases hlive : quota.toNat < t.liveCount p
      · rw [if_pos hlive, if_pos hlive]
      · rw [if_neg hlive, if_neg hlive, State.setPort_setQuota]

theorem State.TableStep.open (s : State) : s.TableStep { s with phase := .run } :=
  ⟨id, fun _ h => (nomatch h), id, id, id, id⟩

theorem State.TableStep.close {s : State} (h : ¬(s.phase = .run ∧ s.live ≠ [])) :
    s.TableStep { s with phase := .setup } := by
  refine ⟨id, fun hs _ => ?_, id, id, id, id⟩
  cases hphase : s.phase with
  | setup => exact hs hphase
  | run => exact State.live_eq_nil.1 (Classical.not_not.1 fun hlive => h ⟨hphase, hlive⟩)

theorem BlockBody.openPhase : BlockBody fun t => ({ t with phase := .run }, .done) :=
  .write ⟨fun _ => rfl, fun _ => rfl, State.TableStep.open, fun _ _ _ => rfl⟩ fun _ _ _ => rfl

theorem BlockBody.closePhase : BlockBody fun t =>
    if t.phase = .run ∧ t.live ≠ [] then (t, .refuse .stillLive) else ({ t with phase := .setup }, .done) where
  ports t := by split <;> rfl
  pending t := by split <;> rfl
  table t := by
    split
    · exact .refl t
    · next h => exact .close h
  blind t o q _ := by
    rw [State.setPort_live, State.setPort_phase]
    by_cases hlive : t.phase = .run ∧ t.live ≠ []
    · rw [if_pos hlive, if_pos hlive]
    · rw [if_neg hlive, if_neg hlive]
      rfl

/-! ### The notice unit -/

theorem State.setBox_self (s : State) (p : PortId) : s.setBox p (s.box p) = s := by
  simp [State.setBox, State.box]

/-- TAKE-NOTICE writes at most the set it takes from, which stays as R140 has it, and reads nothing else. -/
theorem State.takeNoticeRequest_cases (s : State) (p : PortId) : ∃ b reply, ((s.box p).Sound → b.Sound) ∧
    ∀ t : State, t.box p = s.box p → t.takeNoticeRequest p = (t.setBox p b, reply) := by
  cases hset : (s.box p).pending with
  | cons n rest =>
    exact ⟨_, _, fun hb => (hb.tail hset).congr rfl, fun t ht => ht ▸ State.takeNoticeRequest_oldest (ht ▸ hset)⟩
  | nil =>
    cases hlost : (s.box p).lost with
    | true => exact ⟨(s.box p).become { s.box p with lost := false }, _, fun hb => hb.congr rfl, fun t ht =>
        ht ▸ State.takeNoticeRequest_overflow (ht ▸ hset) (ht ▸ hlost)⟩
    | false => exact ⟨s.box p, _, id, fun t ht =>
        (State.takeNoticeRequest_noNotice (ht ▸ hset) (ht ▸ hlost)).trans (by rw [← ht, State.setBox_self])⟩

theorem BlockBody.takeNotice (p : PortId) : BlockBody fun t => t.takeNoticeRequest p := by
  refine ⟨fun t => ?ports, fun t => ?pending, fun t => ?table, fun t o q _ => ?blind⟩
  all_goals obtain ⟨b, reply, hb, htake⟩ := t.takeNoticeRequest_cases p
  case blind => rw [htake (t.setPort o q) rfl, htake t rfl, State.setPort_setBox]
  all_goals rw [htake t rfl]
  case table => exact .setBox t p hb
  all_goals rfl

/-! ### Settings and controllers -/

/-- A block that writes, and answers with what its write leaves. -/
theorem BlockBody.writeAnswer {f : State → State} {reply : State → Reply} (hf : BlockWrite f)
    (h : ∀ (t : State) (p : PortId) (q : Port), reply (t.setPort p q) = reply t) :
    BlockBody fun t => (f t, reply (f t)) :=
  .write hf fun t p q => by rw [hf.blind, h]

/-- A write of the settings, the phase's and the table's own blocks left alone. -/
theorem BlockWrite.setSetup {d : DomainId} {f : Setup → Setup} : BlockWrite fun t => t.setSetup d (f (t.setup d)) :=
  ⟨fun _ => rfl, fun _ => rfl, fun _ => .of_blocks, fun _ _ _ => rfl⟩

theorem BlockWrite.setConfig {d : DomainId} {f : Configuration → Configuration} :
    BlockWrite fun t => t.setConfig d (f (t.config d)) :=
  BlockWrite.setSetup (d := d) (f := fun x => { x with config := f x.config })

theorem BlockWrite.reresolve (d : DomainId) : BlockWrite fun t => t.reresolve d :=
  .of_kept (State.TableKept.reresolve · d) fun t p q => State.setPort_reresolve t p q d

theorem BlockWrite.setDomain {d : DomainId} {f : State → Domain}
    (hf : ∀ (t : State) (p : PortId) (q : Port), f (t.setPort p q) = f t := by intros; rfl) :
    BlockWrite fun t => t.setDomain d (f t) :=
  .of_kept (State.TableKept.setDomain · d _) fun t p q => by rw [hf, State.setPort_setDomain]

theorem BlockBody.setPoint (d : DomainId) (l : Level) (valid clock volt : Byte) :
    BlockBody fun t => t.setPointRequest d l valid clock volt := by
  refine .ite (.refuse _) (.ite (.refuse _) (.ite (.refuse _) (.ite (.refuse _) ?_)))
  exact .writeAnswer (f := fun t => (t.setPoint d l _).reresolve d) (reply := fun u => targetReply (u.domain d))
    ((BlockWrite.reresolve d).comp (.setSetup (f := fun x => { x with points := x.points.set l _ }))) fun _ _ _ => rfl

theorem BlockBody.setLevels (d : DomainId) (rest safe low high : Level) :
    BlockBody fun t => t.setLevelsRequest d rest safe low high := by
  refine .ite (.refuse _) (.ite (.refuse _) ?_)
  exact .writeAnswer (f := fun t => (t.setConfig d _).reresolve d) (reply := fun u => targetReply (u.domain d)) ((BlockWrite.reresolve d).comp
    (.setConfig (f := fun c => { c with rest := rest, safe := safe, floorLimit := low, ceilingLimit := high })))
    fun _ _ _ => rfl

/-- SET-THROTTLE of a line to follow, as it is carried out (R53). -/
def State.followLine (s : State) (d : DomainId) (line : Option ThrottleLine) (level : Level) : State :=
  let u := s.setConfig d { s.config d with throttleLine := line, throttleLevel := level }
  (u.setDomain d { u.domain d with throttled := u.lineLevel line }).reresolve d

theorem BlockWrite.followLine (d : DomainId) (line : Option ThrottleLine) (level : Level) :
    BlockWrite fun t => t.followLine d line level :=
  (BlockWrite.reresolve d).comp (BlockWrite.comp (g := fun t => t.setDomain d _)
    (.setDomain (f := fun u => { u.domain d with throttled := u.lineLevel line }))
    (.setConfig (f := fun c => { c with throttleLine := line, throttleLevel := level })))

theorem BlockBody.setThrottle (d : DomainId) (line : Byte) (level : Level) : BlockBody fun t =>
    match lineArgument line with
    | none => (t, .refuse .badArgument)
    | some followed => (t.followLine d followed level, targetReply ((t.followLine d followed level).domain d)) := by
  cases lineArgument line with
  | none => exact .refuse _
  | some followed => exact .writeAnswer (reply := fun u => targetReply (u.domain d)) (.followLine d followed level) fun _ _ _ => rfl

/-- FORCE with a force level, or with none (R35). -/
def State.setForce (s : State) (d : DomainId) (level : Option Level) : State :=
  (s.setDomain d { s.domain d with force := level }).reresolve d

theorem BlockWrite.setForce (d : DomainId) (level : Option Level) : BlockWrite fun t => t.setForce d level :=
  (BlockWrite.reresolve d).comp (.setDomain (f := fun t => { t.domain d with force := level }))

theorem BlockBody.force (d : DomainId) (arg : ForceArg) : BlockBody fun t =>
    match arg with
    | .other _ => (t, .refuse .badArgument)
    | .clear => (t.setForce d none, forceReply ((t.setForce d none).domain d))
    | .set level => (t.setForce d (some level), forceReply ((t.setForce d (some level)).domain d)) := by
  cases arg with
  | other b => exact .refuse _
  | clear => exact .writeAnswer (reply := fun u => forceReply (u.domain d)) (.setForce d none) fun _ _ _ => rfl
  | set level => exact .writeAnswer (reply := fun u => forceReply (u.domain d)) (.setForce d (some level)) fun _ _ _ => rfl

theorem BlockBody.setPark (d : DomainId) (enable window policy : Byte) :
    BlockBody fun t => t.setParkRequest d enable window policy := by
  refine .ite (.refuse _) (.writeAnswer (f := fun t => t.parkSet d enable window policy)
    (reply := fun u => .ok (byte (u.domain d).state.number) 0 0 0 0 0) ?_ fun _ _ _ => rfl)
  refine ⟨fun t => ?_, fun t => ?_, fun t => ?_, fun t p q => t.setPort_parkSet p q⟩
  all_goals
    have hkept : (t.parkStored d enable window policy).TableKept (t.parkSet d enable window policy) :=
      .ite ((State.TableKept.withdraw _ d).trans (.finish _ d)) (.setDomain _ d _)
  · exact hkept.ports
  · exact hkept.pending
  · exact State.TableStep.trans .of_blocks hkept.tableStep

theorem BlockBody.map (d : DomainId) (v : RailId) : BlockBody fun t => t.mapRequest d v := by
  refine .ite (.refuse _) (.ite (.refuse _) (.ite (.refuse _) (.ite (.refuse _) (.ite (.refuse _) (.ite (.refuse _)
    (.write ⟨fun t => ?_, fun t => ?_, fun t => ?_, fun t p q => ?_⟩ fun _ _ _ => rfl))))))
  · exact (State.TableKept.reevaluateBoth _ _ v).ports
  · exact (State.TableKept.reevaluateBoth _ _ v).pending
  · exact State.TableStep.trans .of_blocks (State.TableKept.reevaluateBoth _ _ v).tableStep
  · rw [State.setPort_config, State.setPort_railOf, State.setPort_setConfig, State.setPort_reevaluateBoth]

theorem BlockBody.setRail (v : RailId) (min max fallback retention stepTime : Byte) :
    BlockBody fun t => t.setRailRequest v min max fallback retention stepTime := by
  refine .ite (.refuse _) (.ite (.refuse _) (.ite (.refuse _) (.ite (.refuse _) (.ite (.refuse _) (.ite (.refuse _)
    (.ite (.refuse _) ?_))))))
  refine .writeAnswer (f := fun t => (t.setRail v _).reevaluate v)
    (reply := fun u => .ok (u.rail v).confirmed (u.rail v).required 0 0 0 0) ?_ fun _ _ _ => rfl
  exact .of_kept (fun t => (State.TableKept.setRail t v _).trans (.reevaluate _ v)) fun t p q => by
    rw [State.setPort_rail, State.setPort_setRail, State.setPort_reevaluate]

theorem State.setPort_clearRail (s : State) (p : PortId) (q : Port) (v : RailId) :
    (s.setPort p q).clearRail v = ((s.clearRail v).1.setPort p q, (s.clearRail v).2) := by
  have hrelease (t : State) (ds : List DomainId) :
      (((t.setPort p q).inFreeOrder ds).1.foldl State.releaseDomain ((t.setPort p q).inFreeOrder ds).2).reevaluate v =
        (((t.inFreeOrder ds).1.foldl State.releaseDomain (t.inFreeOrder ds).2).reevaluate v).setPort p q := by
    rw [State.setPort_inFreeOrder, State.setPort_releaseAll, State.setPort_reevaluate]
  let t := s.setRail v { s.rail v with state := .steady, cause := .none }
  exact Prod.ext (hrelease t ((t.mapped v).filter fun d => (t.domain d).state = .frozen)) rfl

theorem BlockBody.clearRail (arg : FormArg RailId) : BlockBody fun t =>
    match arg with
    | .otherForm _ => (t, .refuse .badArgument)
    | .number v =>
      match (t.rail v).state with
      | .held => t.clearRail v
      | .fallback => (t, .refuse .faultBusy)
      | .shutdown => (t, .refuse .railShut)
      | _ => (t, .refuse .notFaulted) := by
  cases arg with
  | otherForm form => exact .refuse _
  | number v =>
    refine ⟨fun t => ?_, fun t => ?_, fun t => ?_, fun t p q _ => ?_⟩ <;> dsimp only [State.setPort_rail]
    · split
      exacts [(State.TableKept.clearRail t v).ports, rfl, rfl, rfl]
    · split
      exacts [(State.TableKept.clearRail t v).pending, rfl, rfl, rfl]
    · split
      exacts [(State.TableKept.clearRail t v).tableStep, .refl t, .refl t, .refl t]
    · cases (t.rail v).state with
      | held => exact t.setPort_clearRail p q v
      | _ => rfl

theorem BlockBody.clearDomain (d : DomainId) : BlockBody fun t =>
    if (t.domain d).state = .frozen ∧ (t.domain d).cause = .clock ∧ !(t.rail (t.railOf d)).faulted then
      ((t.releaseDomain d).reevaluate (t.railOf d), .ok 1 0 0 0 0 0)
    else if (t.domain d).state = .off then (t, .refuse .railShut)
    else (t, .refuse .notFaulted) := by
  refine .ite (.write ?_ fun _ _ _ => rfl) (.ite (.refuse _) (.refuse _))
  exact .of_kept (fun t => (State.TableKept.releaseDomain t d).trans (.reevaluate _ _)) fun t p q => by
    rw [State.setPort_releaseDomain, State.setPort_railOf, State.setPort_reevaluate]

theorem BlockBody.readPoint (d : DomainId) (page : Byte) : BlockBody fun t =>
    match argument 16 page with
    | some l => (t, pointPage (t.point d l))
    | none =>
      if page = 16 then (t, levelsPage (t.config d))
      else if page = 17 then (t, parkPage (t.config d))
      else if page = 18 then (t, timesPage (t.config d))
      else (t, .refuse .badArgument) := by
  cases argument 16 page with
  | some l => exact .read fun _ _ _ _ => rfl
  | none =>
    exact .ite (.read fun _ _ _ _ => rfl) (.ite (.read fun _ _ _ _ => rfl) (.ite (.read fun _ _ _ _ => rfl) (.refuse _)))

/-! ### Every request -/

/-- The row of a request is the serving of it by a block that leaves the ports and the commands that wait alone. -/
theorem exec_request {i : Instr} {p : PortId} (h : i.requester = some p) :
    ∃ body, BlockBody body ∧ ∀ s, exec i s = .next (s.serve p i body) := by
  cases i with
  | file o d cls level lease tag => cases h; exact ⟨_, .file p d cls level lease tag, fun _ => rfl⟩
  | renew o k lease =>
    cases h
    exact ⟨_, .ownRecord (write := fun r t => t.setRecord k (some { r with lease := leaseOf lease }))
      (fun _ _ => ⟨rfl, rfl⟩) (fun r t hr => .setRecord hr ⟨rfl, rfl, rfl, fun _ => leaseOf_shown lease, id⟩)
      fun _ _ _ _ => rfl, fun _ => rfl⟩
  | release o k =>
    cases h
    exact ⟨_, .ownRecord (write := fun r t => (t.retire k).report r.domain k .retired)
      (fun _ t => t.retire_outside k) (fun _ t _ => (State.TableStep.retire t k).trans .of_blocks)
      fun _ t o q => by rw [State.setPort_retire, State.setPort_report], fun _ => rfl⟩
  | readDemand o k =>
    cases h
    refine ⟨fun t => (t, match t.record k with
      | none => .refuse .noHandle
      | some r => if p = supervisor ∨ r.owner = p then demandReply r else .refuse .notOwner),
      .read fun _ _ _ _ => rfl, fun s => congrArg (fun body => Host.Outcome.next (s.serve p (.readDemand p k) body)) ?_⟩
    funext t
    cases t.record k <;> rfl
  | nextDemand o cursor =>
    cases h
    refine ⟨fun t => (t, match t.live.find? fun x => cursor ≤ x.1 && (p = supervisor || x.2.owner = p) with
      | none => .refuse .noneLeft
      | some (k, r) => .ok (byte k) (byte r.domain) (byte r.cls.number) r.tag 0 0),
      .read fun _ _ _ _ => rfl, fun s => congrArg (fun body => Host.Outcome.next (s.serve p (.nextDemand p cursor) body)) ?_⟩
    funext t
    cases t.live.find? fun x => cursor ≤ x.1 && (p = supervisor || x.2.owner = p) <;> rfl
  | readDomain o d page =>
    cases h
    exact ⟨_, .ite (.read fun _ _ _ _ => rfl) (.ite (.read fun _ _ _ _ => rfl) (.refuse _)), fun _ => rfl⟩
  | readRail o v page =>
    cases h
    exact ⟨_, .ite (.read fun _ _ _ _ => rfl) (.ite (.read fun _ _ _ _ => rfl) (.refuse _)), fun _ => rfl⟩
  | readPoint o d page =>
    cases h
    exact ⟨_, .readPoint d page, fun _ => rfl⟩
  | takeNotice o => cases h; exact ⟨_, .takeNotice p, fun _ => rfl⟩
  | setPoint d l valid clock volt => cases h; exact ⟨_, .setPoint d l valid clock volt, fun _ => rfl⟩
  | setLevels d rest safe low high => cases h; exact ⟨_, .setLevels d rest safe low high, fun _ => rfl⟩
  | setThrottle d line level => cases h; exact ⟨_, .setThrottle d line level, fun _ => rfl⟩
  | setTimes d lock gate =>
    cases h
    exact ⟨_, .ite (.refuse _) (.write (f := fun t => t.setConfig d _)
      (.setConfig (f := fun c => { c with lockCount := lock, gateCount := gate })) fun _ _ _ => rfl), fun _ => rfl⟩
  | map d v => cases h; exact ⟨_, .map d v, fun _ => rfl⟩
  | setPark d enable window policy => cases h; exact ⟨_, .setPark d enable window policy, fun _ => rfl⟩
  | setConsent count =>
    cases h
    exact ⟨_, .ite (.refuse _) (.write (f := fun t => { t with park := { t.park with timeout := count } })
      (.of_kept (fun _ => .of_blocks) fun _ _ _ => rfl) fun _ _ _ => rfl), fun _ => rfl⟩
  | setRail v min max fallback retention stepTime =>
    cases h
    exact ⟨_, .setRail v min max fallback retention stepTime, fun _ => rfl⟩
  | setQuota o quota => cases h; exact ⟨_, .setQuota o quota, fun _ => rfl⟩
  | openPhase => cases h; exact ⟨_, .openPhase, fun _ => rfl⟩
  | closePhase => cases h; exact ⟨_, .closePhase, fun _ => rfl⟩
  | force d arg => cases h; exact ⟨_, .force d arg, fun _ => rfl⟩
  | evictHandleForm arg => cases h; exact ⟨_, .evictHandle arg, fun _ => rfl⟩
  | evictPortForm o => cases h; exact ⟨_, .evictPort o, fun _ => rfl⟩
  | clearFaultRailForm arg => cases h; exact ⟨_, .clearRail arg, fun _ => rfl⟩
  | clearFaultDomainForm d => cases h; exact ⟨_, .clearDomain d, fun _ => rfl⟩
  | restartTables => cases h; exact ⟨_, .restart, fun _ => rfl⟩
  | readPort o =>
    cases h
    refine ⟨_, .read fun t p q hq => ?_, fun _ => rfl⟩
    rw [State.setPort_port]
    split
    · next e => rw [e, hq]; rfl
    · rfl
  | _ => cases h

end Sys2Proof.Machine
end

section
/-! PROOFS. Every row of the table ends in a next state, keeps the demand table's own relations and the pending sets, and
leaves the commands that wait alone; and every request is answered, or its answer dropped. -/

-- The proofs are elaborated one after another: side by side they would exceed the memory that the check allows.
set_option Elab.async false

namespace Sys2Proof.Machine

/-! ### The serving of a request -/

theorem State.serve_cases (s : State) (p : PortId) (i : Instr) (body : State → State × Reply) :
    s.serve p i body = s ∨ ∃ awaited rest, (s.port p).sent = .request i awaited :: rest ∧
      s.serve p i body = (body (s.setPort p { s.port p with sent := rest })).1.answer p awaited
        ((s.setPort p { s.port p with sent := rest }).view p)
        ((body (s.setPort p { s.port p with sent := rest })).2.frame i.commandCode) := by
  unfold State.serve State.takeSent
  split
  · exact .inl rfl
  · next awaited t h =>
    split at h
    · next j a rest hsent =>
      split at h
      · next hj =>
        obtain ⟨rfl, rfl⟩ := Prod.mk.inj (Option.some.inj h)
        exact .inr ⟨a, rest, hj ▸ hsent, rfl⟩
      · cases h
    · cases h

/-- What holds whatever the ports hold, and is kept by the block, is kept by the serving of a request. -/
theorem State.serve_keeps {P : State → Prop} (hport : ∀ (t : State) (p : PortId) (q : Port), P t → P (t.setPort p q))
    {body : State → State × Reply} (hbody : ∀ t, P t → P (body t).1) {s : State} (hs : P s) (p : PortId) (i : Instr) :
    P (s.serve p i body) := by
  rcases s.serve_cases p i body with e | ⟨awaited, rest, -, e⟩ <;> rw [e]
  · exact hs
  · have hdone := hbody _ (hport s p { s.port p with sent := rest } hs)
    unfold State.answer
    split
    · exact hport _ _ _ hdone
    · exact hdone

theorem BlockBody.serve {body : State → State × Reply} (h : BlockBody body) (s : State) (p : PortId) (i : Instr) :
    s.TableStep (s.serve p i body) ∧ (s.serve p i body).pending = s.pending :=
  State.serve_keeps (P := fun t => s.TableStep t ∧ t.pending = s.pending)
    (fun _ _ _ ht => ⟨ht.1.trans .of_blocks, ht.2⟩)
    (fun t ht => ⟨ht.1.trans (h.table t), (h.pending t).trans ht.2⟩) ⟨.refl s, rfl⟩ p i

/-- A request whose answer is awaited is answered with what its block finds. -/
theorem BlockBody.serve_awaited {body : State → State × Reply} (h : BlockBody body) {s : State} {p : PortId} {i : Instr}
    {rest : List Sent} (hs : s.Awaits p i rest) :
    s.serve p i body = (body s).1.answered p rest ((body s).2.frame i.commandCode) s :=
  State.serve_answered hs body _ _ (h.blind s p _ rfl) (by rw [State.port, h.ports]; rfl)

/-- A request whose answer is not awaited is carried out all the same. -/
theorem BlockBody.serve_dropped {body : State → State × Reply} (h : BlockBody body) {s : State} {p : PortId} {i : Instr}
    {rest : List Sent} (hs : (s.port p).sent = .request i false :: rest) :
    s.serve p i body = (body s).1.setPort p { s.port p with sent := rest } := by
  have htake : s.takeSent p i = some (false, s.setPort p { s.port p with sent := rest }) := by
    simp [State.takeSent, hs]
  simp [State.serve, htake, State.answer, h.blind s p { s.port p with sent := rest } rfl]

theorem Reply.frame_spec (r : Reply) (command : Byte) : (r.frame command).b1 = command ∧
    (r.frame command).b0.toNat < 64 ∧ ((r.frame command).b0 ≠ 0 → (r.frame command).b2 = 0 ∧ (r.frame command).b3 = 0 ∧
      (r.frame command).b4 = 0 ∧ (r.frame command).b5 = 0 ∧ (r.frame command).b6 = 0 ∧ (r.frame command).b7 = 0) := by
  cases r with
  | ok b2 b3 b4 b5 b6 b7 => exact ⟨rfl, show StatusCode.ok.toByte.toNat < 64 by decide, fun h => absurd rfl h⟩
  | refuse code =>
    have hcode : code.toByte.toNat < 64 := by cases code <;> decide
    exact ⟨rfl, hcode, fun _ => ⟨rfl, rfl, rfl, rfl, rfl, rfl⟩⟩

/-! ### The rows that are no requests -/

/-- The row ends in a next state, in which the table's relations and the pending sets are kept and the same commands
wait. -/
def State.EndsWell (s : State) (o : Host.Outcome State Fault Refusal) : Prop :=
  ∃ t, o = .next t ∧ s.TableStep t ∧ t.pending = s.pending

variable {s : State}

theorem State.EndsWell.same : s.EndsWell (.next s) := ⟨s, rfl, .refl s, rfl⟩

theorem State.EndsWell.kept {t : State} (h : s.TableKept t) : s.EndsWell (.next t) :=
  ⟨t, rfl, h.tableStep, h.pending⟩

theorem State.EndsWell.blocks {t : State} (hphase : t.phase = s.phase := by rfl)
    (hrecords : t.records = s.records := by rfl) (hquotas : t.quotas = s.quotas := by rfl)
    (hboxes : t.boxes = s.boxes := by rfl) (hpending : t.pending = s.pending := by rfl) : s.EndsWell (.next t) :=
  ⟨t, rfl, .of_blocks hphase hrecords hquotas hboxes, hpending⟩

theorem State.ofReset_quota (inputs : InputLevels) (p : PortId) :
    (State.ofReset inputs).quota p = if p = supervisor then 16 else 8 := by
  fin_cases p <;> rfl

theorem State.reset_tableSound (inputs : InputLevels) :
    (State.ofReset inputs).KeysUnique ∧ (State.ofReset inputs).SetupEmpty ∧ (State.ofReset inputs).QuotasKept ∧
      (State.ofReset inputs).LeasesShown ∧ (State.ofReset inputs).GenerationsSound ∧
      (State.ofReset inputs).BoxesSound := by
  have hrec (h : Handle) : (State.ofReset inputs).record h = none := by simp [State.ofReset, State.record]
  have hlive : (State.ofReset inputs).live = [] := State.live_eq_nil.2 hrec
  refine ⟨fun h k r hr => ?_, fun _ => hrec, fun p => ⟨?_, ?_⟩, fun h r hr => ?_, fun h r hr => ?_, fun p => ?_⟩
  · rw [hrec] at hr; cases hr
  · simp [State.liveCount, hlive]
  · rw [State.ofReset_quota]
    split <;> decide
  · rw [hrec] at hr; cases hr
  · rw [hrec] at hr; cases hr
  · have hbox : (State.ofReset inputs).box p = resetBox := by simp [State.ofReset, State.box]
    rw [hbox]
    exact .empty false [] 0

theorem execPinReset_ends (inputs : InputLevels) : s.EndsWell (execPinReset inputs s) := by
  obtain ⟨hkeys, hsetup, hquotas, hleases, hgenerations, hboxes⟩ := State.reset_tableSound inputs
  exact ⟨_, rfl, ⟨fun _ => hkeys, fun _ => hsetup, fun _ => hquotas, fun _ => hleases, fun _ => hgenerations,
    fun _ => hboxes⟩, rfl⟩

theorem execPortLoss_ends (x : AgentId) : s.EndsWell (execPortLoss x s) := by
  unfold execPortLoss
  dsimp only
  split
  · exact .same
  · next rest _ =>
    let t := s.setPort (AgentId.port x) { s.port (AgentId.port x) with sent := rest }
    let gone := t.live.filter fun y => y.2.owner = AgentId.port x
    let w := t.retireSelected State.retire gone
    have hw : s.TableStep w := .trans .of_blocks (.retireSelected State.TableStep.retire t gone)
    have hu : w.TableStep (w.setBox (AgentId.port x) ((w.box (AgentId.port x)).become resetBox)) :=
      .setBox w _ fun _ => (Box.Sound.empty false [] 0).congr rfl
    exact ⟨_, rfl, (hw.trans hu).trans (.trans .of_blocks (State.TableKept.raise _ _).tableStep),
      (State.TableKept.raise _ _).pending.trans (State.retireSelected_outside State.retire_frame t gone).2⟩

theorem execLeaseExpiry_ends (h : Handle) : s.EndsWell (execLeaseExpiry h s) := by
  unfold execLeaseExpiry
  split
  · exact .same
  · next r hr =>
    split
    · exact ⟨_, rfl, .expel s h r _, (State.retireNotified_outside s h).2⟩
    · exact .same

theorem execNoticeArrival_ends (p : PortId) (n : Notice) : s.EndsWell (execNoticeArrival p n s) := by
  unfold execNoticeArrival
  split
  · exact .same
  · exact ⟨_, rfl, State.TableStep.trans .of_blocks (.setBox _ p fun hb => hb.place n), rfl⟩

theorem execMillisecondBoundary_ends : s.EndsWell (execMillisecondBoundary s) := by
  refine ⟨_, rfl, .of_rewritten rfl rfl (fun h q hq => ?_) id, rfl⟩
  rw [State.mapRecords_record] at hq
  obtain ⟨r, hr, rfl⟩ := Option.map_eq_some_iff.1 hq
  exact ⟨r, hr, r.rewritten_elapse⟩

theorem execTransaction_ends (p : PortId) (start : FirstBit) (f : Frame) : s.EndsWell (execTransaction p start f s) := by
  have hreceive (t : State) (ht : s.EndsWell (.next t)) : s.EndsWell (.next (t.receive p f)) := by
    obtain ⟨u, hu, htable, hpending⟩ := ht
    obtain rfl := Host.Outcome.next.inj hu
    rw [State.receive_eq]
    exact ⟨_, rfl, htable.trans .of_blocks, hpending⟩
  unfold execTransaction
  split
  · exact .blocks
  · split
    · exact .same
    · dsimp only
      split
      · exact .blocks
      · split
        · exact hreceive _ .blocks
        · exact hreceive _ .blocks
        · exact .blocks

theorem execMalformedTransaction_ends (p : PortId) (start : FirstBit) (bits : Nat) (overlap : Option (List Nat)) :
    s.EndsWell (execMalformedTransaction p start bits overlap s) := by
  unfold execMalformedTransaction
  split
  · exact .same
  · split
    · exact .blocks
    · split
      · exact .same
      · dsimp only
        split <;> exact .blocks

theorem execThrottleEdge_ends (line : ThrottleLine) (rising : Bool) : s.EndsWell (execThrottleEdge line rising s) := by
  unfold execThrottleEdge
  split
  · exact .same
  · refine .kept (State.TableKept.trans ?_ ((State.TableKept.inFreeOrder _ _).trans (.foldl (fun t d => ?_) _ _)))
    · cases line <;> exact .of_blocks
    · exact (State.TableKept.setDomain t d _).trans (.reresolve _ d)

theorem execStrobeDriven_ends (d : DomainId) : s.EndsWell (execStrobeDriven d s) := by
  unfold execStrobeDriven
  split
  · exact .same
  · exact .blocks

theorem State.TableKept.lockTaken (s : State) (d : DomainId) (level : Level) : s.TableKept (s.lockTaken d level) := by
  have hplan (t : State) : t.TableKept
      (((t.setDomain d { t.domain d with state := .steady }).plan d).finish d) :=
    (State.TableKept.setDomain t d _).trans ((State.TableKept.plan _ d).trans (.finish _ d))
  unfold State.lockTaken
  dsimp only
  split
  · exact (State.TableKept.setDomain s d _).trans ((State.TableKept.finish _ d).trans (.fallbackCheck _ _))
  · exact (State.TableKept.setDomain s d _).trans (hplan (s.completeStep d level))
  · exact (State.TableKept.setDomain s d _).trans (hplan (s.completeStep d level))
  · exact .refl s

theorem execLockRise_ends (d : DomainId) : s.EndsWell (execLockRise d s) := by
  unfold execLockRise
  split
  · exact .same
  · split
    · exact .kept (.lockTaken s d _)
    · exact .same

theorem execLockTimeout_ends (d : DomainId) : s.EndsWell (execLockTimeout d s) := by
  unfold execLockTimeout
  dsimp only
  split
  · exact .kept (((State.TableKept.setDomain s d _).trans (.holdRecords _ d)).trans
      ((State.TableKept.raise _ _).trans (.finish _ d)))
  · exact .same

theorem execFreezingLockTimeout_ends (d : DomainId) : s.EndsWell (execFreezingLockTimeout d s) := by
  unfold execFreezingLockTimeout
  dsimp only
  split
  · exact .kept (((State.TableKept.setDomain s d _).trans (.raise _ _)).trans
      ((State.TableKept.finish _ d).trans (.fallbackCheck _ _)))
  · exact .same

theorem execQuietTimerExpiry_ends (d : DomainId) : s.EndsWell (execQuietTimerExpiry d s) := by
  unfold execQuietTimerExpiry
  dsimp only
  split
  · exact .kept (((State.TableKept.setDomain s d _).trans (.unsettleRecords _ d)).trans
      ((State.TableKept.joinConsent _ d).trans ((State.TableKept.serveConsent _).trans (.finish _ d))))
  · exact .same

theorem State.TableKept.answerConsent (s : State) (d : DomainId) (allow : Bool) :
    s.TableKept (s.answerConsent d allow) := by
  have hend : s.TableKept s.endRequest := .of_blocks
  unfold State.answerConsent
  dsimp only
  refine (hend.trans ?_).trans (.serveConsent _)
  exact .ite ((State.TableKept.ite (.granted _ d) (.denied _ d)).trans (.finish _ d)) (.refl _)

theorem execCgrantRise_ends : s.EndsWell (execCgrantRise s) := by
  unfold execCgrantRise
  split
  · exact .same
  · dsimp only
    split
    · exact .blocks
    · exact .kept (State.TableKept.trans .of_blocks (.answerConsent _ _ true))

theorem execCdenyRise_ends : s.EndsWell (execCdenyRise s) := by
  unfold execCdenyRise
  split
  · exact .same
  · dsimp only
    split
    · exact .blocks
    · exact .kept (State.TableKept.trans .of_blocks (.answerConsent _ _ false))

theorem execConsentLineFall_ends (line : AnswerLine) : s.EndsWell (execConsentLineFall line s) := by
  unfold execConsentLineFall
  cases line
  all_goals
    dsimp only
    split
    · exact .kept (State.TableKept.trans .of_blocks (.serveConsent _))
    · exact .same

theorem execConsentTimeout_ends : s.EndsWell (execConsentTimeout s) := by
  unfold execConsentTimeout
  split
  · exact .same
  · next x _ => exact .kept ((State.TableKept.placeAll s [_]).trans (.answerConsent _ x.1 _))

theorem execGateSettleExpiry_ends (d : DomainId) : s.EndsWell (execGateSettleExpiry d s) := by
  unfold execGateSettleExpiry
  dsimp only
  split
  · exact .kept ((State.TableKept.setDomain s d _).trans
      ((State.TableKept.ite (.beginWake _ d) (.enterParked _ d)).trans (.finish _ d)))
  · exact .same

theorem execWakeGateSettleExpiry_ends (d : DomainId) : s.EndsWell (execWakeGateSettleExpiry d s) := by
  unfold execWakeGateSettleExpiry
  dsimp only
  split
  · exact .kept ((State.TableKept.setDomain s d _).trans ((State.TableKept.enterClock _ d).trans (.finish _ d)))
  · exact .same

theorem execAssuredCodeChange_ends (d : DomainId) : s.EndsWell (execAssuredCodeChange d s) := by
  unfold execAssuredCodeChange
  dsimp only
  split
  · split
    · exact .kept ((State.TableKept.setDomain s d _).trans
        (.ite ((State.TableKept.startStep _ d _ _).trans (.finish _ d)) (.refl _)))
    · exact .kept ((State.TableKept.setDomain s d _).trans ((State.TableKept.checkRailStage _ d).trans (.finish _ d)))
    · exact .blocks
  · exact .same

theorem execLinkSend_ends : s.EndsWell (execLinkSend s) := by
  unfold execLinkSend
  split
  · exact .same
  · split
    · exact .same
    · next v _ =>
      split
      · exact .kept (State.TableKept.trans .of_blocks (.noteAssured s v _))
      · exact .same

theorem execRegulatorReply_ends (reply : Byte) (pg : Bool) : s.EndsWell (execRegulatorReply reply pg s) := by
  unfold execRegulatorReply
  split
  · next t ack bit v _ _ =>
    dsimp only
    split
    · refine .kept (State.TableKept.trans ?_ (.noteAssured s t.rail _))
      refine State.TableKept.trans (State.TableKept.trans .of_blocks (t := (s.samplePg t.rail pg).endTransfer) ?_)
        (.chooseRail _)
      exact .ite (.refl _) (.ite (.accepted _ t.rail t.code t.tries) (.tryFails _ t _))
    · exact .same
  · exact .same

theorem execReplyTimeout_ends : s.EndsWell (execReplyTimeout s) := by
  unfold execReplyTimeout
  split
  · next t _ _ _ =>
    refine .kept (State.TableKept.trans ?_ (.noteAssured s t.rail _))
    refine State.TableKept.trans (State.TableKept.trans .of_blocks (t := s.endTransfer) ?_) (.chooseRail _)
    exact .ite (.refl _) (.tryFails _ t _)
  · exact .same

theorem execSettleDeadline_ends (v : RailId) (pg : Bool) : s.EndsWell (execSettleDeadline v pg s) := by
  unfold execSettleDeadline
  split
  · exact .kept ((State.TableKept.trans .of_blocks (.outcomeByPg (s.samplePg v pg) v _)).trans (.noteAssured s v _))
  · exact .same

theorem execPgFall_ends (v : RailId) : s.EndsWell (execPgFall v s) := by
  have hsample : s.TableKept (s.samplePg v false) := .of_blocks
  unfold execPgFall
  dsimp only
  split
  · exact .kept hsample
  · exact .kept hsample
  · exact .kept ((hsample.trans (.enterShutdown _ v _)).trans (.noteAssured s v _))
  · exact .kept (.ite hsample ((hsample.trans (.enterFallback _ v _)).trans (.noteAssured s v _)))

theorem exec_event_ends {i : Instr} (h : i.requester = none) : s.EndsWell (exec i s) := by
  cases i with
  | pinReset inputs => exact execPinReset_ends inputs
  | resetHoldEnd =>
    refine (?_ : s.EndsWell (execResetHoldEnd s))
    unfold execResetHoldEnd
    split
    · exact .same
    · exact .kept (State.TableKept.trans .of_blocks (.chooseRail _))
  | transaction p start f => exact execTransaction_ends p start f
  | malformedTransaction p start bits overlap => exact execMalformedTransaction_ends p start bits overlap
  | presentFall x =>
    refine (?_ : s.EndsWell (execPresentFall x s))
    unfold execPresentFall
    dsimp only
    split
    exacts [.blocks, .same]
  | portLoss x => exact execPortLoss_ends x
  | presentRise x =>
    refine (?_ : s.EndsWell (execPresentRise x s))
    unfold execPresentRise
    dsimp only
    split
    exacts [.same, .blocks]
  | leaseExpiry k => exact execLeaseExpiry_ends k
  | recordReport d =>
    refine (?_ : s.EndsWell (execRecordReport d s))
    unfold execRecordReport
    split
    · exact .same
    · exact .kept (State.TableKept.trans .of_blocks (.reresolve _ d))
  | throttleEdge line rising => exact execThrottleEdge_ends line rising
  | strobeDriven d => exact execStrobeDriven_ends d
  | lockRise d => exact execLockRise_ends d
  | lockTimeout d => exact execLockTimeout_ends d
  | freezingLockTimeout d => exact execFreezingLockTimeout_ends d
  | quietTimerExpiry d => exact execQuietTimerExpiry_ends d
  | cgrantRise => exact execCgrantRise_ends
  | cdenyRise => exact execCdenyRise_ends
  | consentLineFall line => exact execConsentLineFall_ends line
  | consentTimeout => exact execConsentTimeout_ends
  | gateSettleExpiry d => exact execGateSettleExpiry_ends d
  | wakeGateSettleExpiry d => exact execWakeGateSettleExpiry_ends d
  | assuredCodeChange d => exact execAssuredCodeChange_ends d
  | linkSend => exact execLinkSend_ends
  | regulatorReply reply pg => exact execRegulatorReply_ends reply pg
  | replyTimeout => exact execReplyTimeout_ends
  | settleDeadline v pg => exact execSettleDeadline_ends v pg
  | pgFall v => exact execPgFall_ends v
  | noticeArrival p n => exact execNoticeArrival_ends p n
  | millisecondBoundary => exact execMillisecondBoundary_ends
  | _ => cases h

/-! ### Every row, and a step -/

theorem exec_ends (i : Instr) (s : State) : s.EndsWell (exec i s) := by
  cases h : i.requester with
  | none => exact exec_event_ends h
  | some p =>
    obtain ⟨body, hbody, he⟩ := exec_request h
    exact ⟨_, he s, hbody.serve s p i⟩

theorem step_tableStep {t : State} (h : step s = .next t) : s.TableStep t := by
  unfold step at h
  split at h
  · obtain rfl := Host.Outcome.next.inj h
    exact .of_blocks
  · next i rest _ =>
    obtain ⟨u, hu, htable, -⟩ := exec_ends i { s with pending := rest }
    obtain rfl := Host.Outcome.next.inj (hu.symm.trans h)
    exact State.TableStep.trans .of_blocks htable

end Sys2Proof.Machine

/-! ### The statements -/

namespace Sys2Proof.Steps

open Sys2Proof.Machine

/-- Settles O60: what places, takes or drops notices keeps a pending set as R140 has it, and nothing else writes one. -/
theorem stepKeepsPendingSets : Obligations.StepKeepsPendingSets :=
  fun _ _ hs h => (step_tableStep h).boxes hs

/-- Settles O3, row by row. -/
theorem everyCommandEndsInANextState : Obligations.EveryCommandEndsInANextState := by
  intro c s
  obtain ⟨t, ht, -, hpending⟩ := exec_ends c s
  exact ⟨t, ht, hpending⟩

/-- Settles O6: the block of a request reads nothing of the port that the answer or its absence changes. -/
theorem requestsAreAnsweredOrDropped : Obligations.RequestsAreAnsweredOrDropped := by
  refine ⟨fun s i p rest hi hs => ?answered, fun s i p rest hi hs => ?dropped⟩
  all_goals
    obtain ⟨body, hbody, hexec⟩ := exec_request hi
    have hport (o : PortId) : (body s).1.port o = s.port o := by rw [State.port, hbody.ports]; rfl
  case answered =>
    obtain ⟨hcommand, hflags, hzero⟩ := (body s).2.frame_spec i.commandCode
    refine ⟨_, _, (hexec s).trans (congrArg _ (hbody.serve_awaited hs)), ?_, hcommand, hflags, hzero, fun q hq => ?_⟩
    · rw [State.answered, State.setPort_port_self, hport, State.setPort_box]
    · rw [State.answered, State.setPort_port, if_neg hq, hport]
  case dropped =>
    refine ⟨_, (body s).2.frame i.commandCode, (hexec s).trans (congrArg _ (hbody.serve_dropped hs)),
      State.setPort_port_self _ _ _, ?_⟩
    intro awaited
    have hawaits : awaited.Awaits p i rest := by
      constructor <;> simp only [awaited, State.setPort_port_self]
    have hsame := hbody.blind s p { s.port p with slot := .working, sent := .request i true :: rest } rfl
    rw [hexec, hbody.serve_awaited hawaits, show body awaited = _ from hsame]
    simp only [State.answered, State.setPort_port_self, State.setPort_setPort, State.setPort_box]

end Sys2Proof.Steps
end

section
/-! PROOFS. The requests of the demand table that create, read and remove records, the leases and the loss of a port:
how their block carries them out, and with that the statements on them. -/

-- The proofs are elaborated one after another: side by side they would exceed the memory that the check allows.
set_option Elab.async false

namespace Sys2Proof.Machine

/-! ### FILE of a new key (R9 to R11, R116) -/

section File
variable {s : State} {p : PortId} {d : DomainId} {cls : DemandClass} {level : Level} {lease : BitVec 16} {tag : Byte}

theorem State.fileRequest_wrongPhase (hsetup : s.phase = .setup) :
    s.fileRequest p d cls level lease tag = (s, .refuse .wrongPhase) := if_pos hsetup

variable (hrun : s.phase = .run) (hkey : s.NoKey p d cls)
include hrun hkey

theorem State.fileRequest_quotaReached (hquota : s.quota p ≤ s.liveCount p) :
    s.fileRequest p d cls level lease tag = (s, .refuse .quotaReached) := by
  simp [State.fileRequest, hrun, State.findKey_eq_none.2 hkey, hquota]

theorem State.fileRequest_tableFull (hquota : s.liveCount p < s.quota p) (hfull : ∀ h, s.record h ≠ none) :
    s.fileRequest p d cls level lease tag = (s, .refuse .tableFull) := by
  simp [State.fileRequest, hrun, State.findKey_eq_none.2 hkey, Nat.not_le.2 hquota, State.lowestFree_eq_none.2 hfull]

theorem State.fileRequest_creates (hquota : s.liveCount p < s.quota p) {h : Handle} (hfree : s.LowestFree h) :
    s.fileRequest p d cls level lease tag = (s.createRecord p d cls level lease tag h, .ok (byte h) 1 0 0 0 0) := by
  simp [State.fileRequest, hrun, State.findKey_eq_none.2 hkey, Nat.not_le.2 hquota, State.lowestFree_eq_some.2 hfree]

end File

/-! ### The rows of the reads and removals -/

theorem exec_readDemand (p : PortId) (h : Handle) (s : State) : exec (.readDemand p h) s = execReadDemand p h s := rfl

theorem exec_nextDemand (p : PortId) (h : Handle) (s : State) : exec (.nextDemand p h) s = execNextDemand p h s := rfl

theorem exec_evictHandleForm (arg : FormArg Handle) (s : State) :
    exec (.evictHandleForm arg) s = execEvictHandleForm arg s := rfl

theorem exec_evictPortForm (p : PortId) (s : State) : exec (.evictPortForm p) s = execEvictPortForm p s := rfl

theorem exec_restartTables (s : State) : exec .restartTables s = execRestartTables s := rfl

theorem exec_leaseExpiry (h : Handle) (s : State) : exec (.leaseExpiry h) s = execLeaseExpiry h s := rfl

theorem exec_portLoss (x : AgentId) (s : State) : exec (.portLoss x) s = execPortLoss x s := rfl

/-! ### READ-DEMAND and NEXT-DEMAND (R18, R19) -/

theorem demandReply_frame (r : Record) (command : Byte) : (demandReply r).frame command =
    ⟨0x00, command, byte (r.domain * 16 + r.level), byte (r.cls.number * 16 + r.status.number), r.generation,
      r.acknowledged, byte ((r.lease.elim 0 Lease.remaining) / 256), byte (r.lease.elim 0 Lease.remaining)⟩ := by
  unfold demandReply
  cases r.lease <;> rfl

/-- Whether NEXT-DEMAND of port p from a cursor may answer a record. -/
def nextFor (p : PortId) (cursor : Handle) (x : Handle × Record) : Bool :=
  cursor ≤ x.1 && (p = supervisor || x.2.owner = p)

theorem nextFor_iff {p : PortId} {cursor : Handle} {x : Handle × Record} :
    nextFor p cursor x = true ↔ cursor ≤ x.1 ∧ (p = supervisor ∨ x.2.owner = p) := by
  simp [nextFor]

/-- The first live record that fits is the one at the lowest handle that fits. -/
theorem State.find?_live_eq_some {s : State} {f : Handle × Record → Bool} {x : Handle × Record}
    (hx : s.record x.1 = some x.2) (hf : f x = true)
    (hbefore : ∀ j q, s.record j = some q → j < x.1 → f (j, q) = false) : s.live.find? f = some x := by
  obtain ⟨before, after, hlive⟩ := List.append_of_mem (State.mem_live.2 hx)
  refine List.find?_eq_some_iff_append.2 ⟨hf, before, after, hlive, fun y hy => ?_⟩
  have hascending := s.live_ascending
  rw [hlive, List.pairwise_append] at hascending
  obtain ⟨-, -, hlt⟩ := hascending
  have hmem : y ∈ s.live := by rw [hlive]; exact List.mem_append_left _ hy
  simp [hbefore y.1 y.2 (State.mem_live.1 hmem) (hlt y hy x (List.mem_cons_self ..))]

theorem State.find?_live_eq_none {s : State} {f : Handle × Record → Bool}
    (hnone : ∀ j q, s.record j = some q → f (j, q) = false) : s.live.find? f = none := by
  refine List.find?_eq_none.2 fun y hy => ?_
  simp [hnone y.1 y.2 (State.mem_live.1 hy)]

/-! ### Retirement with a notice (R16, R21, R142) -/

theorem Box.leave_eq_noting (b : Box) (h : Handle) : b.leave h = b.noting h := by
  unfold Box.leave Box.noting
  split <;> rfl

/-- Once the removal of a handle's standing notice is due, the next record notice of the handle makes it. -/
theorem Box.place_not_standing {b : Box} {n : Notice} {h : Handle} (hhandle : n.handle = some h)
    (hstanding : n.standing = none) (hdue : h ∈ b.leaving) : ∀ m ∈ (b.place n).pending, m.standing ≠ some h := by
  intro m hm
  rw [Box.place_of_leaving hhandle hdue, Box.become_pending] at hm
  have hkept : ∀ k ∈ (b.dropStanding h).pending, k.standing ≠ some h := fun k hk => (Box.mem_dropStanding.1 hk).2
  have hn : n.standing ≠ some h := by rw [hstanding]; nofun
  obtain ⟨-, he⟩ | ⟨-, -, he⟩ | ⟨-, -, he⟩ :=
      Box.join_cases { b.dropStanding h with leaving := b.leaving.filter fun k => k ≠ h } n <;>
    rw [he] at hm
  · obtain ⟨k, hk, rfl⟩ := List.mem_map.1 hm
    split
    · exact hn
    · exact hkept k (List.mem_filter.1 hk).1
  · obtain hm | hm := List.mem_append.1 hm
    · exact hkept m (List.mem_filter.1 hm).1
    · rw [List.mem_singleton.1 hm]; exact hn
  · exact hkept m (List.mem_filter.1 hm).1

theorem Box.mem_noting (b : Box) (h : Handle) : h ∈ (b.noting h).leaving := by
  unfold Box.noting
  dsimp only
  split
  · assumption
  · simp

/-- A record retired with a notice, raised and reported (R16, R17, R21). -/
theorem State.expel_eq {s : State} {h : Handle} {r : Record} (hr : s.record h = some r) (n : Notice) :
    (((s.retireNotified h).raise [(r.owner, n)]).report r.domain h .retired) =
      { (s.setRecord h none).setBox r.owner ((s.box r.owner).noting h) with
        raised := s.raised ++ [[(r.owner, n)]]
        reports := s.reports ++ [{ domain := r.domain, items := [(h, .retired)] }] } := by
  rw [State.retireNotified_eq hr, State.raise_eq, Box.leave_eq_noting]
  rfl

/-! ### A PARKED domain that is wanted (R116) -/

theorem State.resolve_domain (s : State) (d : DomainId) : (s.resolve d).domain d =
    { s.domain d with target := (s.resolution d).1, source := (s.resolution d).2 } := by
  simp [State.resolve]

theorem State.resolve_wanted (s : State) (d : DomainId) : (s.resolve d).wanted d = s.wanted d :=
  (State.DomainFrame.resolve s d).wanted d

/-- A PARKED domain with a FLOOR or a force wakes at its next resolution. -/
theorem State.reresolve_wakes {s : State} {d : DomainId} (hparked : (s.domain d).state = .parked)
    (hwanted : s.wanted d = true) : s.reresolve d = ((s.resolve d).beginWake d).finish d := by
  rw [State.reresolve, State.act_parked (by rw [State.resolve_domain]; exact hparked), State.resolve_wanted,
    if_pos hwanted]

/-- A wake begins in the RAIL stage or, where the rail covers the target, in the GATE stage. -/
theorem State.beginWake_finish_state (s : State) (d : DomainId) :
    (((s.beginWake d).finish d).domain d).state = .waking .rail ∨
      (((s.beginWake d).finish d).domain d).state = .waking .gate := by
  rw [State.finish_domain, State.beginWake_domain]
  dsimp only
  split
  · exact Or.inr rfl
  · exact Or.inl rfl

/-- A record that is PENDING or HELD stays as it is where its domain stops being settled. -/
theorem Record.unsettled_of_not_settled {r : Record} (h : r.status = .pending ∨ r.status = .held) :
    r.unsettled = r := by
  obtain h | h := h <;> simp [Record.unsettled, h]

/-- The record that FILE creates (R11). -/
def State.newRecord (s : State) (p : PortId) (d : DomainId) (cls : DemandClass) (level : Level) (lease : BitVec 16)
    (tag : Byte) : Record where
  owner := p
  domain := d
  cls := cls
  level := level
  tag := tag
  lease := leaseOf lease
  generation := 1
  acknowledged := 0
  lastSettled := none
  status := s.startStatus d

/-- A new record's report, but for a FLOOR on a PARKED domain. -/
theorem State.createRecord_report {s : State} {d : DomainId} {cls : DemandClass}
    (h : ¬(cls = .floor ∧ (s.domain d).state = .parked)) (p : PortId) (level : Level) (lease : BitVec 16) (tag : Byte)
    (k : Handle) : s.createRecord p d cls level lease tag k =
      (s.setRecord k (some (s.newRecord p d cls level lease tag))).report d k .created :=
  if_neg (by rwa [Bool.and_eq_true, decide_eq_true_eq, decide_eq_true_eq])

/-- A new FLOOR on a PARKED domain makes it re-resolve in the event (R116). -/
theorem State.createRecord_reresolves {s : State} {d : DomainId} (h : (s.domain d).state = .parked) (p : PortId)
    (level : Level) (lease : BitVec 16) (tag : Byte) (k : Handle) : s.createRecord p d .floor level lease tag k =
      (s.setRecord k (some (s.newRecord p d .floor level lease tag))).reresolve d :=
  if_pos (by rw [Bool.and_eq_true, decide_eq_true_eq, decide_eq_true_eq]; exact ⟨rfl, h⟩)

theorem State.setPort_createRecord (s : State) (o : PortId) (q : Port) (p : PortId) (d : DomainId) (cls : DemandClass)
    (level : Level) (lease : BitVec 16) (tag : Byte) (h : Handle) :
    (s.setPort o q).createRecord p d cls level lease tag h = (s.createRecord p d cls level lease tag h).setPort o q :=
  State.setPort_reportCreated (s.setRecord h _) o q d cls h

theorem State.createRecord_port (s : State) (p : PortId) (d : DomainId) (cls : DemandClass)
    (level : Level) (lease : BitVec 16) (tag : Byte) (h : Handle) (o : PortId) :
    (s.createRecord p d cls level lease tag h).port o = s.port o := by
  dsimp only [State.createRecord, State.reportCreated]
  split
  · exact State.reresolve_port _ _ _
  · rfl

/-! ### The leases at a boundary (R13) -/

theorem State.leaseExpiry_not_due {s : State} {h : Handle} (hnone : ∀ r ∈ s.record h, ∀ l ∈ r.lease, l.due = false) :
    execLeaseExpiry h s = .next s := by
  unfold execLeaseExpiry
  split
  · rfl
  · next r hr =>
    split
    · next n hlease => exact absurd (hnone r hr _ hlease) (by simp)
    · rfl

/-! ### The loss of a port (R24, R25, R159) -/

theorem takeLoss_append {ahead : List Sent} (hahead : .loss ∉ ahead) (rest : List Sent) :
    takeLoss (ahead ++ .loss :: rest) = some (ahead.filter (fun m => match m with
      | .request i _ => !i.lostWithPort
      | .loss => true) ++ rest) := by
  induction ahead with
  | nil => rfl
  | cons m ahead ih =>
    obtain ⟨hm, hrest⟩ := not_or.1 (mt List.mem_cons.2 hahead)
    cases m with
    | loss => exact absurd rfl hm
    | request i awaited =>
      simp only [List.cons_append, takeLoss, ih hrest, Option.map_some, List.filter_cons]
      by_cases hlost : i.lostWithPort = true <;> simp [hlost]

/-- The handles of the live records of a selection. -/
theorem State.mem_selected {s : State} {f : Handle × Record → Bool} {h : Handle} :
    h ∈ (s.live.filter f).map Prod.fst ↔ ∃ r, s.record h = some r ∧ f (h, r) = true := by
  simp only [List.mem_map, List.mem_filter, State.mem_live]
  constructor
  · rintro ⟨⟨k, r⟩, ⟨hr, hf⟩, rfl⟩
    exact ⟨r, hr, hf⟩
  · rintro ⟨r, hr, hf⟩
    exact ⟨(h, r), ⟨hr, hf⟩, rfl⟩

/-- Retirement of the records of a port leaves the records of the others. -/
theorem State.retireOwned_record {out : State → Handle → State}
    (hout : ∀ s h k, (out s h).record k = if k = h then none else s.record k) (s : State) (p : PortId) (h : Handle) :
    (s.retireSelected out (s.live.filter fun x => x.2.owner = p)).record h =
      if (s.record h).any (fun r => r.owner = p) then none else s.record h := by
  rw [State.retireSelected_record hout]
  refine if_congr ?_ rfl rfl
  rw [State.mem_selected]
  cases s.record h <;> simp

/-- The sets of the other ports have no part in the retirement of a port's records. -/
theorem State.foldl_out_box_other {out : State → Handle → State} {p : PortId}
    (hout : ∀ (s : State) h q, (∀ r ∈ s.record h, r.owner ≠ q) → (out s h).box q = s.box q)
    (hrecord : ∀ s h k, (out s h).record k = if k = h then none else s.record k) {hs : List Handle} {s : State}
    (hmine : ∀ h ∈ hs, ∀ r ∈ s.record h, r.owner ≠ p) : (hs.foldl out s).box p = s.box p := by
  induction hs generalizing s with
  | nil => rfl
  | cons h hs ih =>
    have hfirst := hmine h (List.mem_cons_self ..)
    rw [List.foldl_cons, ih, hout s h p hfirst]
    intro k hk r hr
    rw [hrecord] at hr
    split at hr
    · cases hr
    · exact hmine k (List.mem_cons_of_mem _ hk) r hr

theorem State.retire_box_other (s : State) (h : Handle) (q : PortId) (ho : ∀ r ∈ s.record h, r.owner ≠ q) :
    (s.retire h).box q = s.box q := by
  rw [State.retire_box, if_neg]
  simpa [Option.any_eq_true] using ho

theorem State.retireNotified_box_other (s : State) (h : Handle) (q : PortId) (ho : ∀ r ∈ s.record h, r.owner ≠ q) :
    (s.retireNotified h).box q = s.box q := by
  rw [State.retireNotified_box, if_neg]
  simpa [Option.any_eq_true] using ho

/-- The owners of the records of a port that are retired are that port. -/
theorem State.selected_owner {s : State} {p q : PortId} (hq : q ≠ p) :
    ∀ h ∈ (s.live.filter fun x => x.2.owner = p).map Prod.fst, ∀ r ∈ s.record h, r.owner ≠ q := by
  intro h hh r hr
  obtain ⟨r', hr', ho⟩ := State.mem_selected.1 hh
  rw [Option.mem_def, hr'] at hr
  cases hr
  rw [of_decide_eq_true ho]
  exact hq.symm

/-- Retirements with notices move no count of ALERT. -/
theorem State.foldl_retireNotified_turns (s : State) (hs : List Handle) (p : PortId) :
    ((hs.foldl State.retireNotified s).box p).turns = (s.box p).turns := by
  induction hs generalizing s with
  | nil => rfl
  | cons h hs ih =>
    rw [List.foldl_cons, ih, State.retireNotified_box]
    split
    · unfold Box.leave; split <;> rfl
    · rfl

/-- A set that an event has only taken from and then empties counts its ALERT as one that it empties at once. -/
theorem Box.become_of_removed {b c e : Box} (hturns : c.turns = (b.become c).turns)
    (halerting : c.alerting = true → b.alerting = true) (hempty : e.alerting = false) : c.become e = b.become e := by
  have hcount : (c.become e).turns = (b.become e).turns := by
    rw [Box.become_turns, Box.become_turns, hturns, Box.become_turns, hempty]
    cases hc : c.alerting with
    | true => rw [halerting hc]; rfl
    | false => cases b.alerting <;> rfl
  calc c.become e = { e with turns := (c.become e).turns } := rfl
    _ = b.become e := by rw [hcount]; rfl

/-- A port's set that is emptied once its records are retired is as one that is emptied at once. -/
theorem State.retireSelected_box_emptied (s : State) (gone : List (Handle × Record)) (p : PortId) :
    ((s.retireSelected State.retire gone).box p).become resetBox = (s.box p).become resetBox := by
  obtain ⟨hturns, halerting⟩ := s.foldl_retire_turns (gone.map Prod.fst) p
  exact Box.become_of_removed hturns halerting rfl

/-! ### Reports of retirements (R9) -/

theorem retirementReports_domains_nodup (gone : List (Handle × Record)) :
    ((retirementReports gone).map Report.domain).Nodup := by
  have hdomains : (retirementReports gone).map Report.domain =
      allDomains.filter fun d => gone.any fun x => x.2.domain = d := by
    unfold retirementReports
    rw [List.map_filterMap, ← List.filterMap_eq_filter]
    refine List.filterMap_congr fun d _ => ?_
    by_cases hmine : (gone.filter fun x => decide (x.2.domain = d)) = []
    · have hany : ¬∃ x ∈ gone, x.2.domain = d := by simpa [List.filter_eq_nil_iff] using hmine
      simp [hmine, Option.guard, hany]
    · have hany : ∃ x ∈ gone, x.2.domain = d := by simpa [List.filter_eq_nil_iff] using hmine
      simp [hmine, Option.guard, hany]
  rw [hdomains]
  exact (List.nodup_finRange 12).filter _

end Sys2Proof.Machine

/-! ### The statements -/

namespace Sys2Proof.DemandTable

open Sys2Proof.Machine

/-- Settles O13, by the first check of FILE that fails. -/
theorem fileRefusalsInOrder : Obligations.FileRefusalsInOrder := by
  intro s p d cls level lease tag rest hs
  simp only [exec_file, execFile]
  refine ⟨fun hsetup => ?_, fun hrun hkey hquota => ?_, fun hrun hkey hquota hfull => ?_⟩
  · rw [State.serve_refused hs _ .wrongPhase (State.fileRequest_wrongPhase (s := s.setPort _ _) hsetup)]; rfl
  · rw [State.serve_refused hs _ .quotaReached (State.fileRequest_quotaReached (s := s.setPort _ _) hrun hkey hquota)]
    rfl
  · rw [State.serve_refused hs _ .tableFull (State.fileRequest_tableFull (s := s.setPort _ _) hrun hkey hquota hfull)]
    rfl

/-- Settles O11, by whether the record is a FLOOR on a PARKED domain. -/
theorem fileCreatesARecord : Obligations.FileCreatesARecord := by
  intro s p d cls level lease tag rest h hs hrun hkey hquota hfree
  have hexec : exec (.file p d cls level lease tag) s = .next
      ((s.createRecord p d cls level lease tag h).answered p rest ⟨0x00, 0x10, byte h, 1, 0, 0, 0, 0⟩ s) := by
    rw [exec_file, execFile, State.serve_answered hs _ (s.createRecord p d cls level lease tag h)
      (.ok (byte h) 1 0 0 0 0) ((State.fileRequest_creates (s := s.setPort _ _) hrun hkey hquota hfree).trans
        (by rw [State.setPort_createRecord])) (State.createRecord_port ..)]
    rfl
  refine ⟨fun hreported => ?reported, fun hfloor hparked => ?parked⟩
  case reported => rw [hexec, State.createRecord_report hreported, State.newRecord, State.startStatus_eq]; rfl
  case parked =>
    subst hfloor
    rw [State.createRecord_reresolves hparked] at hexec
    have hnew : s.newRecord p d .floor level lease tag = {
        owner := p, domain := d, cls := .floor, level := level, tag := tag, lease := leaseOf lease, generation := 1,
        acknowledged := 0, lastSettled := none,
        status := if (s.domain d).state = .frozen ∨ (s.domain d).state = .off then .held else .pending } := by
      rw [State.newRecord, State.startStatus_eq]
    have hpending : (s.newRecord p d .floor level lease tag).status = .pending := by
      simp [State.newRecord, State.startStatus_eq, hparked]
    have hwh := s.setRecord_record_self h (some (s.newRecord p d .floor level lease tag))
    refine ⟨_, hexec, congrArg (fun r => (s.setRecord h (some r)).reresolve d) hnew, ?_⟩
    have hframe := State.DomainFrame.reresolve (s.setRecord h (some (s.newRecord p d .floor level lease tag))) d
    have hwakes := State.reresolve_wakes (s := s.setRecord h (some (s.newRecord p d .floor level lease tag))) hparked
      (State.wanted_iff.2 (Or.inl ⟨h, _, hwh, rfl, rfl⟩))
    refine ⟨?record, hframe.reports, fun k hk hnone => hframe.freed k ?_, ?state, hframe.domains⟩
    case record =>
      rw [hwakes, State.finish_record, State.beginWake_record]
      show Option.map _ ((s.setRecord h (some (s.newRecord p d .floor level lease tag))).record h) = _
      have hdomain : (s.newRecord p d .floor level lease tag).domain = d := rfl
      rw [hwh, Option.map_some, if_pos hdomain, Record.unsettled_of_not_settled (Or.inl hpending), hnew]
      rfl
    case state =>
      rw [hwakes]
      exact State.beginWake_finish_state _ d
    · rw [State.setRecord_record, if_neg hk]; exact hnone

/-- Settles O15: READ-DEMAND looks at one handle, and NEXT-DEMAND finds the first that it may answer. -/
theorem demandReadsChangeNothing : Obligations.DemandReadsChangeNothing := by
  intro s p h rest
  refine ⟨fun hs => ?read, fun hs => ?next⟩
  case read =>
    simp only [exec_readDemand, execReadDemand]
    refine ⟨fun r hr hmay => ?_, fun hr => ?_, fun r hr hp ho => ?_⟩
    · have hrec : (s.setPort p { s.port p with sent := rest }).record h = some r := hr
      rw [State.serve_answered hs _ s (demandReply r) (by simp only [hrec, if_pos hmay]) rfl,
        demandReply_frame]
      rfl
    · have hrec : (s.setPort p { s.port p with sent := rest }).record h = none := hr
      rw [State.serve_refused hs _ .noHandle (by simp only [hrec])]
      rfl
    · have hrec : (s.setPort p { s.port p with sent := rest }).record h = some r := hr
      rw [State.serve_refused hs _ .notOwner (by simp only [hrec, if_neg (not_or.2 ⟨hp, ho⟩)])]
      rfl
  case next =>
    simp only [exec_nextDemand, execNextDemand]
    refine ⟨fun k r hr hle hmay hfirst => ?_, fun hnone => ?_⟩
    · have hfind : (s.live.find? fun x => h ≤ x.1 && (p = supervisor || x.2.owner = p)) = some (k, r) := by
        refine State.find?_live_eq_some (f := nextFor p h) hr (nextFor_iff.2 ⟨hle, hmay⟩) fun j q hq hlt => ?_
        rw [Bool.eq_false_iff, ne_eq, nextFor_iff]
        rintro ⟨hj, hq'⟩
        obtain ⟨hp, ho⟩ := hfirst j hj hlt q hq
        exact hq'.elim hp ho
      rw [State.serve_answered hs _ s (.ok (byte k) (byte r.domain) (byte r.cls.number) r.tag 0 0)
        (by simp only [State.setPort_live, hfind]) rfl]
      rfl
    · have hfind : (s.live.find? fun x => h ≤ x.1 && (p = supervisor || x.2.owner = p)) = none := by
        refine State.find?_live_eq_none (f := nextFor p h) fun j q hq => ?_
        rw [Bool.eq_false_iff, ne_eq, nextFor_iff]
        rintro ⟨hj, hq'⟩
        obtain ⟨hp, ho⟩ := hnone j hj q hq
        exact hq'.elim hp ho
      rw [State.serve_refused hs _ .noneLeft (by simp only [State.setPort_live, hfind])]
      rfl

/-- Settles O18, in handle form by what the handle names, and in port form over the retirements of the port's records in
ascending order. -/
theorem evictRetiresByHandleOrPort : Obligations.EvictRetiresByHandleOrPort := by
  refine ⟨fun s h form rest => ⟨fun hs => ?number, fun hs => ?otherForm⟩, fun s p rest hs => ?port⟩
  case number =>
    refine ⟨fun r hr => ⟨?_, ?_⟩, fun hr => ?_⟩
    · rw [exec_evictHandleForm, execEvictHandleForm, State.serve_answered hs _
        (((s.retireNotified h).raise [(r.owner, .evicted h r.tag)]).report r.domain h .retired)
        (.ok (byte r.owner) 1 0 0 0 0), State.expel_eq hr]
      · rfl
      · have hrec : (s.setPort supervisor { s.port supervisor with sent := rest }).record h = some r := hr
        simp only [hrec, State.setPort_retireNotified, State.setPort_raise, State.setPort_report]
      · rw [State.expel_eq hr]; rfl
    · exact Box.place_not_standing rfl rfl (Box.mem_noting _ h)
    · have hrec : (s.setPort supervisor { s.port supervisor with sent := rest }).record h = none := hr
      rw [exec_evictHandleForm, execEvictHandleForm, State.serve_refused hs _ .noHandle (by simp only [hrec])]
      rfl
  case otherForm =>
    rw [exec_evictHandleForm, execEvictHandleForm, State.serve_refused hs _ .badArgument rfl]
    rfl
  case port =>
    have hframe := State.retireSelected_eq State.retireNotified_frame s (s.live.filter fun x => x.2.owner = p)
    have hbox := s.foldl_retireNotified_box ((s.live.filter fun x => x.2.owner = p).map Prod.fst) p
    have hraised : (s.retireSelected State.retireNotified (s.live.filter fun x => x.2.owner = p)).raised = s.raised := by
      rw [hframe]
    refine ⟨(s.retireSelected State.retireNotified (s.live.filter fun x => x.2.owner = p)).raise
      ((s.live.filter fun x => x.2.owner = p).map fun x => (p, .evicted x.1 x.2.tag)), ?_, ?_, ?_, ?_, ?_, ?_, ?_, ?_, ?_,
      ?_, ?_⟩
    · rw [exec_evictPortForm, execEvictPortForm, State.serve_answered hs _ _
        (.ok 0 (byte (s.live.filter fun x => x.2.owner = p).length) 0 0 0 0)
        (by
          simp only [State.setPort_live]
          rw [State.setPort_retireSelected _ _ _ (fun t h => t.setPort_retireNotified _ _ h), State.setPort_raise])
        (by rw [State.raise_eq, hframe]; rfl)]
      rfl
    · rw [State.raise_eq, hframe]
    · rw [State.raise_eq]
      exact State.retireOwned_record State.retireNotified_record s p
    · rw [State.raise_eq]; exact hbox.2
    · rw [State.raise_eq]; exact hbox.1
    · rw [State.raise_eq]; exact s.foldl_retireNotified_turns _ p
    · intro h
      rw [State.raise_eq]
      refine (s.mem_foldl_retireNotified_leaving _ p h).trans (or_congr_right ?_)
      rw [State.mem_selected]
      refine ⟨And.right, fun hmine => ⟨?_, hmine⟩⟩
      obtain ⟨r, hr, ho⟩ := hmine
      exact ⟨r, hr, decide_eq_true ho⟩
    · exact fun x _ b hdue => Box.place_not_standing rfl rfl hdue
    · intro q hq
      rw [State.raise_eq]
      exact State.foldl_out_box_other State.retireNotified_box_other State.retireNotified_record
        (State.selected_owner hq)
    · rw [State.raise_eq, hraised]
      exact if_congr List.map_eq_nil_iff rfl rfl
    · rw [State.raise_eq, hframe]

/-- Settles O19, over the retirements of all live records. -/
theorem restartTablesEmptiesTheTable : Obligations.RestartTablesEmptiesTheTable := by
  intro s rest hs
  have hframe := State.retireSelected_eq State.retire_frame s s.live
  obtain ⟨hturns, -⟩ := s.foldl_retire_turns (s.live.map Prod.fst) supervisor
  have hbox : ∀ q, (s.retireSelected State.retire s.live).emptyAgentBoxes.box q = if q = supervisor then
      (s.retireSelected State.retire s.live).box q
      else ((s.retireSelected State.retire s.live).box q).become resetBox := State.emptyAgentBoxes_box _
  have hkept := hbox supervisor
  rw [if_pos rfl] at hkept
  refine ⟨(s.retireSelected State.retire s.live).emptyAgentBoxes, ?_, ?_, ?_, ?_, ?_, ?_, ?_, ?_, ?_⟩
  · rw [exec_restartTables, execRestartTables, State.serve_answered hs _ (s.retireSelected State.retire s.live).emptyAgentBoxes
      (.ok (byte s.live.length) 0 0 0 0 0)
      (by rw [State.setPort_live, State.setPort_retireSelected _ _ _ (fun t h => t.setPort_retire _ _ h)]; rfl)
      (by rw [hframe]; rfl)]
    rfl
  · rw [State.emptyAgentBoxes, hframe]
  · intro h
    refine (State.retireSelected_record State.retire_record s s.live h).trans ?_
    cases hr : s.record h with
    | none => exact ite_self _
    | some r => exact if_pos (List.mem_map.2 ⟨(h, r), State.mem_live.2 hr, rfl⟩)
  · intro x
    have hagent : x.castSucc ≠ supervisor := (Fin.castSucc_lt_last x).ne
    rw [hbox, if_neg hagent]
    exact s.retireSelected_box_emptied s.live x.castSucc
  · rw [hkept]; exact hturns
  · rw [hkept]; exact s.foldl_retire_lost _ _
  · rw [hkept]; exact s.foldl_retire_leaving _ _
  · intro n
    rw [hkept, State.mem_retireSelected_box]
    refine and_congr_right fun _ => ⟨fun hall h hn r hr => ?_, fun hall h _ => hall h⟩
    exact hall h (List.mem_map.2 ⟨(h, r), State.mem_live.2 hr, rfl⟩) hn r hr
  · show (s.retireSelected State.retire s.live).reports = _
    rw [hframe]

/-- Settles O20: the loss leaves the way with what it discards, the records of Ax are retired as one selection, and its
set is emptied behind them. -/
theorem portLossRetiresTheAgentsRecords : Obligations.PortLossRetiresTheAgentsRecords := by
  intro s x ahead rest hsent hahead
  have hloss := takeLoss_append hahead rest
  rw [← hsent] at hloss
  generalize hleft : ahead.filter _ ++ rest = left at hloss
  have hframe := State.retireSelected_eq State.retire_frame s (s.live.filter fun y => y.2.owner = x.castSucc)
  generalize hgone : s.retireSelected State.retire (s.live.filter fun y => y.2.owner = x.castSucc) = w at hframe
  have hexec : exec (.portLoss x) s = .next { (w.setBox x.castSucc ((w.box x.castSucc).become resetBox)).setPort
      x.castSucc { s.port x.castSucc with sent := left } with
        raised := raisedWithout x.castSucc s.raised ++ [[(supervisor, .portLost x)]] } := by
    rw [exec_portLoss, execPortLoss, AgentId.port]
    simp only [hloss]
    rw [State.setPort_live, State.setPort_retireSelected _ _ _ (fun t h => t.setPort_retire _ _ h), hgone,
      State.raise_eq, if_neg (List.cons_ne_nil _ _)]
    rw [hframe]
    rfl
  refine ⟨_, hexec, ?_, ?_, ?_, ?_, ?_, ?_, rfl, ?_⟩
  · rw [hframe]; rfl
  · rw [← hgone]
    exact State.retireOwned_record State.retire_record s x.castSucc
  · refine (State.setBox_box_self w x.castSucc _).trans ?_
    rw [← hgone]
    exact s.retireSelected_box_emptied _ _
  · intro q hq
    refine (State.setBox_box w x.castSucc q _).trans ?_
    rw [if_neg hq, ← hgone]
    exact State.foldl_out_box_other State.retire_box_other State.retire_record (State.selected_owner hq)
  · exact State.setPort_port_self ..
  · intro q hq
    refine (State.setPort_port ..).trans ?_
    rw [if_neg hq, hframe]
    rfl
  · show w.reports = _
    rw [hframe]

/-- Settles O21: a report is one of a domain among those retired, and names the records on it. -/
theorem retirementsAreReportedTogether : Obligations.RetirementsAreReportedTogether := by
  intro gone
  refine ⟨retirementReports_domains_nodup gone, fun d => ⟨fun hmine => ?_, ?_⟩, fun r hr h k => ?_⟩
  · exact ⟨⟨d, (gone.filter fun x => x.2.domain = d).map fun x => (x.1, .retired)⟩,
      mem_retirementReports.2 ⟨hmine, rfl⟩, rfl⟩
  · rintro ⟨r, hr, rfl⟩
    exact (mem_retirementReports.1 hr).1
  · rw [(mem_retirementReports.1 hr).2, List.mem_map]
    constructor
    · rintro ⟨x, hx, heq⟩
      obtain ⟨hx, hd⟩ := List.mem_filter.1 hx
      cases heq
      exact ⟨rfl, x, hx, rfl, of_decide_eq_true hd⟩
    · rintro ⟨rfl, x, hx, rfl, hd⟩
      exact ⟨x, List.mem_filter.2 ⟨hx, decide_eq_true hd⟩, rfl⟩

/-- Settles O22: a boundary elapses every lease, and an expiry that is due retires its record with a notice. -/
theorem leasesCountDownAndExpire : Obligations.LeasesCountDownAndExpire := by
  intro s
  refine ⟨⟨_, rfl, rfl, fun h => ?boundary⟩, fun h => ⟨fun r hr n hlease => ⟨?expires, ?placed⟩, ?notDue⟩⟩
  case boundary => exact State.mapRecords_record s _ h
  case expires =>
    rw [Option.mem_def] at hr
    rw [exec_leaseExpiry]
    simp only [execLeaseExpiry, hr, hlease]
    rw [State.expel_eq hr]
  case placed => exact Box.place_not_standing rfl rfl (Box.mem_noting _ h)
  case notDue => exact fun hnone => State.leaseExpiry_not_due hnone

end Sys2Proof.DemandTable
end

section
/-! PROOFS. The steps of the part, the notice unit, the settings that touch no timer, FORCE, the page reads and the reset,
and with that the statements on them. -/

-- The proofs are elaborated one after another: side by side they would exceed the memory that the check allows.
set_option Elab.async false

namespace Sys2Proof.Machine

/-! ### Rows -/

theorem exec_setTimes (d : DomainId) (lock gate : Byte) (s : State) :
    exec (.setTimes d lock gate) s = execSetTimes d lock gate s := rfl

theorem exec_setConsent (count : Byte) (s : State) : exec (.setConsent count) s = execSetConsent count s := rfl

theorem exec_force (d : DomainId) (arg : ForceArg) (s : State) : exec (.force d arg) s = execForce d arg s := rfl

theorem exec_noticeArrival (p : PortId) (n : Notice) (s : State) :
    exec (.noticeArrival p n) s = execNoticeArrival p n s := rfl

theorem exec_strobeDriven (d : DomainId) (s : State) : exec (.strobeDriven d) s = execStrobeDriven d s := rfl

theorem exec_presentFall (x : AgentId) (s : State) : exec (.presentFall x) s = execPresentFall x s := rfl

theorem exec_presentRise (x : AgentId) (s : State) : exec (.presentRise x) s = execPresentRise x s := rfl

/-! ### One µs of the time base -/

theorem mapAll_getElem {α β : Type} {n : Nat} (f : α → β) (v : Vector α n) (i : Nat) (h : i < n) :
    (mapAll f v)[i] = f v[i] := by
  simp [mapAll]

theorem State.tick_domain (s : State) (d : DomainId) : s.tick.domain d = (s.domain d).tick :=
  mapAll_getElem Domain.tick s.domains d d.isLt

theorem State.tick_rail (s : State) (v : RailId) : s.tick.rail v = (s.rail v).tick :=
  mapAll_getElem Rail.tick s.rails v v.isLt

theorem Rail.tick_settling {r : Rail} {code : Byte} {tries : Try} {n : Nat}
    (h : r.command = .outstanding code tries (.settling n)) :
    r.tick = { r with command := .outstanding code tries (.settling (n - 1)) } := by
  simp only [Rail.tick, h]

theorem Rail.tick_of_not_settling {r : Rail} (h : ∀ code tries n, r.command ≠ .outstanding code tries (.settling n)) :
    r.tick = r := by
  unfold Rail.tick
  split
  · next heq => exact absurd heq (h _ _ _)
  · rfl

/-! ### The order of notices (R141, R142) -/

/-- A placing depends on the set, the flag and the due removals, and not on the count. -/
theorem Box.become_join_congr {b c e : Box} (n : Notice) (hpending : c.pending = e.pending) (hlost : c.lost = e.lost)
    (hleaving : c.leaving = e.leaving) : b.become (c.join n) = b.become (e.join n) := by
  obtain ⟨p, l, k, m⟩ := c
  obtain ⟨p', l', k', m'⟩ := e
  subst hpending hlost hleaving
  simp only [Box.join]
  split
  · rfl
  · split <;> rfl

/-- An arrival makes its removal, and then its notice joins the set. -/
theorem Box.place_eq (b : Box) (n : Notice) : b.place n = b.become ((b.relieved n).join n) := by
  cases hn : n.handle with
  | none =>
    rw [Box.place_of_handle_none hn]
    exact Box.become_join_congr n (by simp [Box.relieved, hn]) rfl (by simp [Box.relieved, hn])
  | some h =>
    by_cases hdue : h ∈ b.leaving
    · rw [Box.place_of_leaving hn hdue]
      refine Box.become_join_congr n ?_ rfl ?_
      · refine List.filter_congr fun m _ => ?_
        simp only [hn, Option.some.injEq]
        refine decide_eq_decide.2 (not_congr ⟨fun hm => ⟨h, hdue, rfl, hm⟩, ?_⟩)
        rintro ⟨k, -, rfl, hm⟩
        exact hm
      · refine List.filter_congr fun k _ => ?_
        simp only [hn, ne_eq, Option.some.injEq]
        exact decide_eq_decide.2 (not_congr eq_comm)
    · have hkept : ∀ k ∈ b.leaving, n.handle ≠ some k := by
        rintro k hk heq
        rw [hn, Option.some.injEq] at heq
        exact hdue (heq ▸ hk)
      rw [Box.place_of_not_leaving (by rintro k hk; rw [hn, Option.mem_some_iff] at hk; exact hk ▸ hdue)]
      refine Box.become_join_congr n (List.filter_eq_self.2 fun m _ => ?_).symm rfl (List.filter_eq_self.2 fun k hk => ?_).symm
      · exact decide_eq_true fun ⟨k, hk, heq, _⟩ => hkept k hk heq
      · exact decide_eq_true (hkept k hk)

/-- Events without a next notice n for port p do not give one. -/
theorem takeRaised_append {p : PortId} {n : Notice} {before : List (List (PortId × Notice))}
    (hbefore : ∀ xs ∈ before, takeFirst p n xs = none) (rest : List (List (PortId × Notice))) :
    takeRaised p n (before ++ rest) = (takeRaised p n rest).map (before ++ ·) := by
  induction before with
  | nil => simp
  | cons xs before ih =>
    rw [List.cons_append, takeRaised, hbefore xs (List.mem_cons_self ..),
      ih fun ys hys => hbefore ys (List.mem_cons_of_mem _ hys), Option.map_map]
    rfl

theorem takeRaised_first {p : PortId} {n : Notice} {xs left : List (PortId × Notice)}
    (h : takeFirst p n xs = some left) (after : List (List (PortId × Notice))) :
    takeRaised p n (xs :: after) = some ((if left = [] then [] else [left]) ++ after) := by
  cases left <;> simp [takeRaised, h]

/-- The next notice of an event for port p is its first one. -/
theorem takeFirst_of_other {p : PortId} {n m : Notice} {ahead behind : List (PortId × Notice)}
    (hahead : ∀ x ∈ ahead, x.1 ≠ p) (hm : m ≠ n) : takeFirst p m (ahead ++ (p, n) :: behind) = none := by
  induction ahead with
  | nil => simp [takeFirst, hm.symm]
  | cons x ahead ih =>
    rw [List.cons_append, takeFirst, if_neg (hahead x (List.mem_cons_self ..)),
      ih fun y hy => hahead y (List.mem_cons_of_mem _ hy)]
    rfl

/-! ### FORCE (R35) -/

theorem State.setForce_force (s : State) (d : DomainId) (level : Option Level) :
    ((s.setForce d level).domain d).force = level := by
  rw [State.setForce, (State.DomainFrame.reresolve _ d).force, State.setDomain_domain_self]

theorem State.setPort_setForce (s : State) (p : PortId) (q : Port) (d : DomainId) (level : Option Level) :
    (s.setPort p q).setForce d level = (s.setForce d level).setPort p q :=
  State.setPort_reresolve (s.setDomain d _) p q d

/-- FORCE leaves the force level as set, and answers with it. -/
theorem State.serve_setForce {s : State} {p : PortId} {i : Instr} {rest : List Sent} (hs : s.Awaits p i rest)
    (body : State → State × Reply) (d : DomainId) (level : Option Level)
    (hbody : ∀ t, body t = (t.setForce d level, forceReply ((t.setForce d level).domain d))) :
    s.serve p i body = (s.setForce d level).answered p rest
      ⟨0x00, i.commandCode, byte ((s.setForce d level).domain d).target,
        byte ((s.setForce d level).domain d).source.number, bit level.isSome, byte (level.getD 0), 0, 0⟩ s := by
  rw [State.serve_answered hs body (s.setForce d level) (forceReply ((s.setForce d level).domain d))
    (by rw [hbody, State.setPort_setForce, State.setPort_domain]) (State.reresolve_port ..)]
  simp only [forceReply, State.setForce_force]
  rfl

end Sys2Proof.Machine

/-! ### The statements -/

namespace Sys2Proof.Steps

open Sys2Proof.Machine

/-- Settles O1, from the definition of a step. -/
theorem stepRunsFrontCommand : Obligations.StepRunsFrontCommand := by
  intro s c rest hpending
  rw [step, hpending]

/-- Settles O2, timer by timer. -/
theorem idleStepCountsTimersDown : Obligations.IdleStepCountsTimersDown := by
  intro s hpending
  refine ⟨s.tick, by rw [step, hpending], fun d => s.tick_domain d, fun v => ⟨fun code tries n h => ?_, fun h => ?_⟩,
    rfl, rfl, rfl⟩
  · rw [State.tick_rail, Rail.tick_settling h]
  · rw [State.tick_rail, Rail.tick_of_not_settling h]

end Sys2Proof.Steps

namespace Sys2Proof.Ports

open Sys2Proof.Machine

/-- Settles O10, edge by edge. -/
theorem presentEdgesEmptyThePort : Obligations.PresentEdgesEmptyThePort := by
  intro s x
  refine ⟨fun hpresent => ?fall, fun habsent => ?rise⟩
  case fall =>
    rw [exec_presentFall, execPresentFall, AgentId.port]
    simp only [hpresent, if_true, Host.Outcome.next.injEq]
    have habandon : Sent.abandon = fun m => match m with
        | .request i _ => .request i false
        | .loss => .loss := by
      funext m
      cases m <;> rfl
    rw [habandon]
    rfl
  case rise =>
    rw [exec_presentRise, execPresentRise, AgentId.port]
    simp only [habsent, Bool.false_eq_true, if_false, Host.Outcome.next.injEq]
    rfl

end Sys2Proof.Ports

namespace Sys2Proof.NoticeUnit

open Sys2Proof.Machine

/-- Settles O24: an arrival is its removal and the placing by the cases of R141, and of an event only the first notice to
a port can be taken. -/
theorem noticesArriveInOrderAndArePlaced : Obligations.NoticesArriveInOrderAndArePlaced := by
  refine ⟨fun s p n left htake => ?arrives, fun b n => ?placed, fun p n before after ahead behind hahead hbefore =>
    ⟨?taken, fun m hm => takeFirst_of_other hahead hm⟩⟩
  case arrives =>
    rw [exec_noticeArrival]
    simp only [execNoticeArrival, htake]
    rfl
  case placed =>
    rw [Box.place_eq]
    exact congrArg b.become (if_congr List.any_eq_true rfl rfl)
  case taken =>
    rw [takeRaised_append hbefore, takeRaised_first (takeFirst_append p n ahead behind hahead), Option.map_some,
      List.append_assoc]

end Sys2Proof.NoticeUnit

namespace Sys2Proof.DomainSetup

open Sys2Proof.Machine

/-- Settles O25: each request writes its counts or, where one is 0, nothing. -/
theorem timesAndConsentAreStored : Obligations.TimesAndConsentAreStored := by
  intro s d lock gate rest
  refine ⟨fun hs => ⟨fun hzero => ?_, fun hlock hgate => ?_⟩, fun hs => ⟨fun hzero => ?_, fun hlock => ?_⟩⟩
  · rw [exec_setTimes, execSetTimes, State.serve_refused hs _ .badArgument (if_pos hzero)]
    rfl
  · rw [exec_setTimes, execSetTimes, State.serve_answered hs _
      (s.setConfig d { s.config d with lockCount := lock, gateCount := gate }) .done
      (if_neg (not_or.2 ⟨hlock, hgate⟩)) rfl]
    rfl
  · rw [exec_setConsent, execSetConsent, State.serve_refused hs _ .badArgument (if_pos hzero)]
    rfl
  · rw [exec_setConsent, execSetConsent, State.serve_answered hs _ { s with park := { s.park with timeout := lock } }
      .done (if_neg hlock) rfl]
    rfl

/-- Settles O28, by the set-or-clear argument. -/
theorem forceSetsAndClears : Obligations.ForceSetsAndClears := by
  intro s d level b rest
  refine ⟨fun hs => ?_, fun hs => ?_, fun hs => ?_⟩
  · exact congrArg Host.Outcome.next (State.serve_setForce hs _ d (some level) fun _ => rfl)
  · exact congrArg Host.Outcome.next (State.serve_setForce hs _ d none fun _ => rfl)
  · rw [exec_force, execForce, State.serve_refused hs _ .badArgument rfl]
    rfl

end Sys2Proof.DomainSetup

namespace Sys2Proof.Domains

open Sys2Proof.Machine

/-- Settles O39, by the pending strobe and whether its step is still present. -/
theorem strobesAreDriven : Obligations.StrobesAreDriven := by
  intro s d
  simp only [exec_strobeDriven, execStrobeDriven]
  refine ⟨fun clock hstrobe hstep => ?_, fun clock hstrobe hstep => ?_, fun hstrobe => ?_, fun hstrobe => ?_⟩
  · simp only [hstrobe, State.timerAtStrobe, Option.isSome_iff_ne_none.2 hstep, if_true]
    rfl
  · simp only [hstrobe, State.timerAtStrobe, hstep, Option.isSome_none, Bool.false_eq_true, if_false]
    rfl
  · simp only [hstrobe, State.timerAtStrobe]
    rfl
  · simp only [hstrobe]

end Sys2Proof.Domains
end

section
/-! PROOFS. The page reads, field by field, and the state after a pin reset, and with that the statements on them. -/

-- The proofs are elaborated one after another: side by side they would exceed the memory that the check allows.
set_option Elab.async false

namespace Sys2Proof.Machine

/-! ### Numbers in bytes -/

theorem byte_toNat {n : Nat} (h : n < 256) : (byte n).toNat = n := by
  rw [byte, BitVec.toNat_ofNat, Nat.mod_eq_of_lt h]

theorem DomainState.number_stageNumber_lt (c : DomainState) : c.number * 16 + c.stageNumber < 256 := by
  cases c with
  | waking stage => cases stage <;> decide
  | _ => decide

theorem Governing.number_lt (g : Governing) : g.number < 256 := by cases g <;> decide

/-- The flags and the cause of READ-DOMAIN, page 0, read back from its byte (Table 10-6). -/
theorem flagsByte_bits (step force need settled gated : Bool) (cause : DomainCause) :
    let b := byte ((if step then 128 else 0) + (if force then 64 else 0) + (if need then 32 else 0) +
      (if settled then 16 else 0) + (if gated then 8 else 0) + cause.number)
    b.getLsbD 7 = step ∧ b.getLsbD 6 = force ∧ b.getLsbD 5 = need ∧ b.getLsbD 4 = settled ∧ b.getLsbD 3 = gated ∧
      b.toNat % 8 = cause.number := by
  cases cause <;> revert step force need settled gated <;> decide

/-- The state, cause and try of READ-RAIL, page 0, read back from their byte (Table 10-7). -/
theorem railByte_fields (state : RailState) (cause : RailCause) (tries : Nat) (h : tries ≤ 2) :
    let b := byte (state.number * 32 + cause.number * 4 + tries)
    b.toNat / 32 = state.number ∧ b.toNat / 4 % 8 = cause.number ∧ b.toNat % 4 = tries := by
  have hstate : state.number ≤ 6 := by cases state <;> decide
  have hcause : cause.number ≤ 4 := by cases cause <;> decide
  have hb : (byte (state.number * 32 + cause.number * 4 + tries)).toNat =
      state.number * 32 + cause.number * 4 + tries := byte_toNat (by omega)
  dsimp only
  rw [hb]
  omega

theorem Command.tryNumber_le (c : Command) : c.tryNumber ≤ 2 := by
  cases c with
  | outstanding code tries phase => cases tries <;> simp [Command.tryNumber, Try.number]
  | _ => simp [Command.tryNumber]

theorem Command.indication_lt (c : Command) : c.indication < 256 := by
  cases c with
  | outstanding code tries phase => cases phase <;> simp [Command.indication]
  | _ => simp [Command.indication]

/-! ### Counts of a page -/

theorem State.live_length_le (s : State) : s.live.length ≤ 64 :=
  (List.length_filterMap_le ..).trans (List.length_finRange).le

theorem State.countOn_eq (s : State) (d : DomainId) (cls : DemandClass) :
    s.countOn d cls = (s.live.filter fun x => x.2.domain = d ∧ x.2.cls = cls).length := by
  simp only [State.countOn, Bool.decide_and]

theorem State.countOn_lt (s : State) (d : DomainId) (cls : DemandClass) : s.countOn d cls < 256 :=
  ((List.length_filter_le ..).trans s.live_length_le).trans_lt (by decide)

theorem State.mapped_length_lt (s : State) (v : RailId) : (s.mapped v).length < 256 :=
  ((List.length_filter_le ..).trans (List.length_finRange).le).trans_lt (by decide)

/-- The quiet timer in ms, rounded up (R80). -/
theorem quietByte_spec {n : Nat} (h : n ≤ 255000) :
    n ≤ (byte ((n + 999) / 1000)).toNat * 1000 ∧ (byte ((n + 999) / 1000)).toNat * 1000 < n + 1000 := by
  rw [byte_toNat (by omega)]
  omega

/-! ### Pages -/

theorem page_ne_of_gt {page : Byte} {n m : Nat} (h : page.toNat > n) (hm : m ≤ n) (hn : n < 256) :
    page ≠ BitVec.ofNat 8 m := by
  rintro rfl
  rw [BitVec.toNat_ofNat, Nat.mod_eq_of_lt (by omega)] at h
  omega

theorem argument_eq_some {n : Nat} {b : Byte} {i : Fin n} (h : b.toNat = i) : argument n b = some i := by
  have hlt : b.toNat < n := h ▸ i.isLt
  rw [argument, dif_pos hlt]
  exact congrArg some (Fin.ext h)

theorem argument_eq_none {n : Nat} {b : Byte} (h : n ≤ b.toNat) : argument n b = none :=
  dif_neg (Nat.not_lt.2 h)

/-- The page that READ-DOMAIN answers with (R80). -/
def State.domainPage (s : State) (d : DomainId) (page : Byte) : Reply :=
  if page = 0 then domainPage0 (s.domain d)
  else if page = 1 then domainPage1 (s.countOn d .floor) (s.countOn d .cap) (s.domain d).quietTimer
  else .refuse .badArgument

/-- The page that READ-RAIL answers with (R104). -/
def State.railPage (s : State) (v : RailId) (page : Byte) : Reply :=
  if page = 0 then railPage0 (s.rail v) (s.assured v)
  else if page = 1 then railPage1 (s.rail v) (s.mapped v).length
  else .refuse .badArgument

/-- The page that READ-POINT answers with (R60). -/
def State.pointPage (s : State) (d : DomainId) (page : Byte) : Reply :=
  match argument 16 page with
  | some l => Machine.pointPage (s.point d l)
  | none =>
    if page = 16 then levelsPage (s.config d)
    else if page = 17 then parkPage (s.config d)
    else if page = 18 then timesPage (s.config d)
    else .refuse .badArgument

section Pages
variable {s : State} {p : PortId} {rest : List Sent} {page : Byte}

theorem exec_readDomain_answers {d : DomainId} (hs : s.Awaits p (.readDomain p d page) rest) :
    exec (.readDomain p d page) s = .next (s.answered p rest ((s.domainPage d page).frame 0x20)) := by
  refine congrArg Host.Outcome.next (State.serve_answered hs _ s _ ?_ rfl)
  unfold State.domainPage
  dsimp only
  split_ifs <;> rfl

theorem exec_readRail_answers {v : RailId} (hs : s.Awaits p (.readRail p v page) rest) :
    exec (.readRail p v page) s = .next (s.answered p rest ((s.railPage v page).frame 0x21)) := by
  refine congrArg Host.Outcome.next (State.serve_answered hs _ s _ ?_ rfl)
  unfold State.railPage
  dsimp only
  split_ifs <;> rfl

theorem exec_readPoint_answers {d : DomainId} (hs : s.Awaits p (.readPoint p d page) rest) :
    exec (.readPoint p d page) s = .next (s.answered p rest ((s.pointPage d page).frame 0x22)) := by
  refine congrArg Host.Outcome.next (State.serve_answered hs _ s _ ?_ rfl)
  unfold State.pointPage
  dsimp only
  cases argument 16 page with
  | some l => rfl
  | none => dsimp only; split_ifs <;> rfl

theorem State.domainPage_refused {d : DomainId} (h : page.toNat > 1) : s.domainPage d page = .refuse .badArgument :=
  (if_neg (page_ne_of_gt h (Nat.zero_le 1) (by decide))).trans (if_neg (page_ne_of_gt h le_rfl (by decide)))

theorem State.railPage_refused {v : RailId} (h : page.toNat > 1) : s.railPage v page = .refuse .badArgument :=
  (if_neg (page_ne_of_gt h (Nat.zero_le 1) (by decide))).trans (if_neg (page_ne_of_gt h le_rfl (by decide)))

theorem State.pointPage_entry {d : DomainId} {l : Level} (h : page.toNat = l) :
    s.pointPage d page = Machine.pointPage (s.point d l) := by
  rw [State.pointPage, argument_eq_some h]

theorem State.pointPage_refused {d : DomainId} (h : page.toNat > 18) : s.pointPage d page = .refuse .badArgument := by
  rw [State.pointPage, argument_eq_none (by omega)]
  exact (if_neg (page_ne_of_gt h (m := 16) (by decide) (by decide))).trans
    ((if_neg (page_ne_of_gt h (m := 17) (by decide) (by decide))).trans
      (if_neg (page_ne_of_gt h (m := 18) (by decide) (by decide))))

/-- The fields of READ-DOMAIN, page 0 (Table 10-6). -/
theorem domainPage0_fields (c : Domain) (command : Byte) : let f := (domainPage0 c).frame command
    f.b0 = 0x00 ∧ f.b2.toNat = c.state.number * 16 + c.state.stageNumber ∧ f.b3.toNat = c.current * 16 + c.target ∧
      f.b4.toNat = (c.step.getD 0 : Level) * 16 + (c.force.getD 0 : Level) ∧
      f.b5.getLsbD 7 = c.step.isSome ∧ f.b5.getLsbD 6 = c.force.isSome ∧ f.b5.getLsbD 5 = c.need.isSome ∧
      f.b5.getLsbD 4 = c.settled ∧ f.b5.getLsbD 3 = c.gated ∧ f.b5.toNat % 8 = c.cause.number ∧
      f.b6.toNat = c.source.number ∧ f.b7 = c.need.getD 0 := by
  have hlevels : ∀ l m : Level, (nibbles l m).toNat = l * 16 + m := fun l m => byte_toNat (by omega)
  obtain ⟨hstep, hforce, hneed, hsettled, hgated, hcause⟩ :=
    flagsByte_bits c.step.isSome c.force.isSome c.need.isSome c.settled c.gated c.cause
  exact ⟨rfl, byte_toNat c.state.number_stageNumber_lt, hlevels _ _, hlevels _ _, hstep, hforce, hneed, hsettled,
    hgated, hcause, byte_toNat c.source.number_lt, rfl⟩

/-- The fields of READ-DOMAIN, page 1 (Table 10-6). -/
theorem domainPage1_fields (s : State) (d : DomainId) (quiet : Option Nat) (command : Byte) :
    let f := (domainPage1 (s.countOn d .floor) (s.countOn d .cap) quiet).frame command
    f.b0 = 0x00 ∧ f.b2.toNat = (s.live.filter fun x => x.2.domain = d ∧ x.2.cls = .floor).length ∧
      f.b3.toNat = (s.live.filter fun x => x.2.domain = d ∧ x.2.cls = .cap).length ∧ (quiet = none → f.b4 = 0) ∧
      (∀ n, quiet = some n → n ≤ 255000 → n ≤ f.b4.toNat * 1000 ∧ f.b4.toNat * 1000 < n + 1000) ∧
      f.b5 = 0 ∧ f.b6 = 0 ∧ f.b7 = 0 := by
  refine ⟨rfl, ?_, ?_, ?_, ?_, rfl, rfl, rfl⟩
  · rw [← State.countOn_eq]; exact byte_toNat (s.countOn_lt d .floor)
  · rw [← State.countOn_eq]; exact byte_toNat (s.countOn_lt d .cap)
  · rintro rfl; rfl
  · rintro n rfl hn; exact quietByte_spec hn

/-- The fields of READ-RAIL, page 0 (Table 10-7). -/
theorem railPage0_fields (r : Rail) (assured command : Byte) : let f := (railPage0 r assured).frame command
    f.b0 = 0x00 ∧ f.b2.toNat / 32 = r.state.number ∧ f.b2.toNat / 4 % 8 = r.cause.number ∧
      f.b2.toNat % 4 = r.command.tryNumber ∧ f.b3 = r.confirmed ∧ f.b4 = r.required ∧ f.b5 = assured ∧
      f.b6 = r.command.codeByte ∧ f.b7.toNat = r.command.indication := by
  obtain ⟨hstate, hcause, htry⟩ := railByte_fields r.state r.cause r.command.tryNumber r.command.tryNumber_le
  exact ⟨rfl, hstate, hcause, htry, rfl, rfl, rfl, rfl, byte_toNat r.command.indication_lt⟩

end Pages

/-! ### The reset values -/

theorem State.reset_point : ∀ (d : DomainId) (l : Level),
    State.reset.point d l = { valid := l = 0, clock := 0x00, volt := 0x80 } := by decide

theorem State.reset_config : ∀ d : DomainId, State.reset.config d = {
    rest := 0, safe := 0, floorLimit := 0, ceilingLimit := 15, throttleLine := none, throttleLevel := 0
    rail := ⟨d % 4, Nat.mod_lt _ (by decide)⟩, lockCount := 20, gateCount := 10, park := false, window := 10
    policy := .stay } := by decide

theorem State.ofReset_record (inputs : InputLevels) (h : Handle) : (State.ofReset inputs).record h = none := by
  simp [State.ofReset, State.record]

theorem State.ofReset_domain (inputs : InputLevels) (d : DomainId) : (State.ofReset inputs).domain d = resetDomain := by
  simp [State.ofReset, State.domain]

theorem State.ofReset_rail (inputs : InputLevels) (v : RailId) : (State.ofReset inputs).rail v = resetRail := by
  simp [State.ofReset, State.rail]

theorem State.ofReset_box (inputs : InputLevels) (p : PortId) : (State.ofReset inputs).box p = resetBox := by
  simp [State.ofReset, State.box]

/-- Presence after a reset: that of the PRESENT inputs, and S always (R160). -/
theorem State.ofReset_port (inputs : InputLevels) (p : PortId) : (State.ofReset inputs).port p =
    resetPort (if h : p.val < 8 then inputs.present[p.val] else true) := by
  fin_cases p <;> rfl

theorem State.ofReset_waiting (inputs : InputLevels) (v : RailId) : (State.ofReset inputs).waiting v = false := by
  simp [State.waiting, State.ofReset_rail, resetRail]

end Sys2Proof.Machine

/-! ### The statements -/

namespace Sys2Proof.DomainSetup

open Sys2Proof.Machine

/-- Settles O32, page by page; the numbers are those of their tables. -/
theorem pageReadsShowTheState : Obligations.PageReadsShowTheState := by
  refine ⟨fun s p d page rest hs => ?domain, fun s p v d page rest => ⟨fun hs => ?rail, fun hs => ?point⟩, rfl, rfl, ?_,
    rfl, fun stage => rfl, rfl, rfl, rfl, rfl, rfl, rfl, rfl, fun code => ⟨rfl, fun tries n c hc => ?_⟩⟩
  case domain =>
    refine ⟨_, exec_readDomain_answers hs, ?_, fun h => ?_, fun h => ?_, fun h => ?_⟩
    · unfold State.domainPage; split_ifs <;> rfl
    · rw [State.domainPage_refused h]; rfl
    · subst h; exact domainPage0_fields (s.domain d) 0x20
    · subst h; exact domainPage1_fields s d (s.domain d).quietTimer 0x20
  case rail =>
    refine ⟨_, exec_readRail_answers hs, ?_, fun h => ?_, fun h => ?_, fun h => ?_⟩
    · unfold State.railPage; split_ifs <;> rfl
    · rw [State.railPage_refused h]; rfl
    · subst h; exact railPage0_fields (s.rail v) (s.assured v) 0x21
    · subst h; exact ⟨rfl, rfl, rfl, rfl, rfl, rfl, byte_toNat (s.mapped_length_lt v)⟩
  case point =>
    rw [exec_readPoint_answers hs]
    refine ⟨fun l h => ?_, fun h => ?_, fun h => ?_, fun h => ?_, fun h => ?_⟩
    · rw [State.pointPage_entry h]; rfl
    · subst h; rfl
    · subst h
      show Host.Outcome.next (s.answered p rest ((parkPage (s.config d)).frame 0x22)) = _
      unfold parkPage
      cases (s.config d).throttleLine with
      | none => cases (s.config d).policy <;> rfl
      | some line => cases line <;> cases (s.config d).policy <;> rfl
    · subst h; rfl
    · rw [State.pointPage_refused h]; rfl
  · intro c h
    cases c with
    | waking stage => exact absurd rfl (h stage)
    | _ => rfl
  · rcases List.mem_cons.1 hc with rfl | hc
    · cases tries <;> exact ⟨rfl, rfl, (if_pos rfl).symm⟩
    · rw [List.mem_singleton.1 hc]
      cases tries <;> exact ⟨rfl, rfl, (if_neg nofun).symm⟩

end Sys2Proof.DomainSetup

namespace Sys2Proof.Steps

open Sys2Proof.Machine

/-- Settles O56, block by block. -/
theorem pinResetRestoresEveryBlock : Obligations.PinResetRestoresEveryBlock := by
  intro s inputs
  refine ⟨_, rfl, rfl, State.ofReset_record inputs, State.ofReset_quota inputs, State.reset_point, State.reset_config,
    State.ofReset_domain inputs, State.ofReset_rail inputs, rfl, rfl, rfl, rfl, rfl, State.ofReset_waiting inputs, rfl,
    fun p => ⟨State.ofReset_box inputs p, ?_⟩, fun x => ?_, rfl, rfl, rfl, rfl⟩
  · have hport := State.ofReset_port inputs p
    exact ⟨congrArg Port.past hport, congrArg Port.since hport, congrArg Port.slot hport, congrArg Port.framing hport,
      congrArg Port.sent hport⟩
  · exact (congrArg Port.present (State.ofReset_port inputs x.castSucc)).trans (dif_pos x.isLt)

end Sys2Proof.Steps
end

section
/-! PROOFS. The request frames: what a frame that a port passes on says, byte by byte, and that the request's own frame is
read back as the request; and with that the statements on frames and on the checks of a port. -/

-- The proofs are elaborated one after another: side by side they would exceed the memory that the check allows.
set_option Elab.async false

namespace Sys2Proof

/-! ### Argument bytes -/

theorem numberByte_toNat {n : Nat} (hn : n ≤ 256) (i : Fin n) : (numberByte i).toNat = i := by
  rw [numberByte, BitVec.toNat_ofNat, Nat.mod_eq_of_lt (i.isLt.trans_le hn)]

theorem argument_numberByte {n : Nat} (hn : n ≤ 256) (i : Fin n) : argument n (numberByte i) = some i :=
  Machine.argument_eq_some (numberByte_toNat hn i)

/-- An argument byte that is in range is the byte of its number. -/
theorem argument_eq_some_iff {n : Nat} (hn : n ≤ 256) {b : Byte} {i : Fin n} :
    argument n b = some i ↔ b = numberByte i := by
  refine ⟨fun h => ?_, fun h => by rw [h, argument_numberByte hn]⟩
  unfold argument at h
  split at h
  · cases h
    exact BitVec.eq_of_toNat_eq (numberByte_toNat hn ⟨b.toNat, _⟩).symm
  · cases h

theorem argument_of_lt {n : Nat} {b : Byte} (h : b.toNat < n) : argument n b = some ⟨b.toNat, h⟩ := dif_pos h

theorem classArgument_classByte (cls : DemandClass) : classArgument (classByte cls) = some cls := by cases cls <;> rfl

theorem classArgument_eq_some_iff {b : Byte} {cls : DemandClass} : classArgument b = some cls ↔ b = classByte cls := by
  refine ⟨fun h => ?_, fun h => by rw [h, classArgument_classByte]⟩
  unfold classArgument at h
  split at h
  · next hb => cases h; exact hb
  · split at h
    · next hb => cases h; exact hb
    · cases h

theorem classArgument_eq_none {b : Byte} (h : b.toNat > 1) : classArgument b = none := by
  have h0 : b ≠ 0 := Machine.page_ne_of_gt h (m := 0) (by decide) (by decide)
  have h1 : b ≠ 1 := Machine.page_ne_of_gt h (m := 1) (by decide) (by decide)
  rw [classArgument, if_neg h0, if_neg h1]

theorem getLsbD_append_byte (a b : Byte) (i : Nat) :
    (show BitVec 16 from a ++ b).getLsbD i = if i < 8 then b.getLsbD i else a.getLsbD (i - 8) :=
  BitVec.getLsbD_append (x := a) (y := b)

theorem highByte_append (a b : Byte) : highByte (a ++ b) = a := by
  apply BitVec.eq_of_getLsbD_eq
  intro i hi
  rw [highByte, BitVec.getLsbD_extractLsb', decide_eq_true hi, Bool.true_and]
  refine (getLsbD_append_byte a b (8 + i)).trans ?_
  rw [if_neg (by omega), Nat.add_sub_cancel_left]

theorem lowByte_append (a b : Byte) : lowByte (a ++ b) = b := by
  apply BitVec.eq_of_getLsbD_eq
  intro i hi
  rw [lowByte, BitVec.getLsbD_extractLsb', decide_eq_true hi, Bool.true_and]
  refine (getLsbD_append_byte a b (0 + i)).trans ?_
  rw [Nat.zero_add, if_pos hi]

theorem highByte_append_lowByte (x : BitVec 16) : highByte x ++ lowByte x = x := by
  apply BitVec.eq_of_getLsbD_eq
  intro i hi
  refine (getLsbD_append_byte (highByte x) (lowByte x) i).trans ?_
  by_cases hlow : i < 8
  · rw [if_pos hlow, lowByte, BitVec.getLsbD_extractLsb', decide_eq_true hlow, Bool.true_and, Nat.zero_add]
  · have hhigh : i - 8 < 8 := by omega
    rw [if_neg hlow, highByte, BitVec.getLsbD_extractLsb', decide_eq_true hhigh, Bool.true_and]
    congr 1
    omega

/-! ### Which frames a port passes on (R154, R155) -/

/-- A command code that the port passes on, where the arguments are in range. -/
def Frame.Taken (f : Frame) (p : PortId) : Prop :=
  f.b0 ∈ anyPortCommands ∧ f.b0 ≠ 0x00 ∨ f.b0 ∈ supervisorCommands ∧ p = supervisor

theorem supervisorCommands_disjoint : ∀ b : Byte, b ∈ supervisorCommands → b ∉ anyPortCommands ∧ b ≠ 0x00 := by
  decide

/-- Past the first two checks the third decides: a request that is passed on, or BAD_ARGUMENT. -/
theorem Frame.request_taken {f : Frame} {p : PortId} (h : f.Taken p) :
    f.request p = match f.arguments p with
      | some i => .passed i
      | none => .answered (.refuse .badArgument) := by
  obtain ⟨hany, h0⟩ | ⟨hsup, hp⟩ := h
  · have hnot : f.b0 ∉ supervisorCommands := fun hsup => (supervisorCommands_disjoint _ hsup).1 hany
    exact (if_neg fun h => h.1 hany).trans ((if_neg fun h => hnot h.1).trans (if_neg h0))
  · exact (if_neg fun h => h.2 hsup).trans ((if_neg fun h => h.2 hp).trans
      (if_neg (supervisorCommands_disjoint _ hsup).2))

/-- What is passed on has passed the first two checks. -/
theorem Frame.taken_of_passed {f : Frame} {p : PortId} {i : Instr} (h : f.request p = .passed i) :
    f.Taken p ∧ f.arguments p = some i := by
  have htaken : f.Taken p := by
    unfold Frame.request at h
    split at h
    · cases h
    · next hknown =>
      split at h
      · cases h
      · next hpermitted =>
        split at h
        · cases h
        · next h0 =>
          by_cases hsup : f.b0 ∈ supervisorCommands
          · exact Or.inr ⟨hsup, not_not.1 fun hp => hpermitted ⟨hsup, hp⟩⟩
          · exact Or.inl ⟨not_not.1 fun hany => hknown ⟨hany, hsup⟩, h0⟩
  refine ⟨htaken, ?_⟩
  rw [Frame.request_taken htaken] at h
  cases ha : f.arguments p with
  | none => rw [ha] at h; cases h
  | some j => rw [ha] at h; cases h; rfl

theorem Frame.request_passed {f : Frame} {p : PortId} {i : Instr} (h : f.Taken p) (ha : f.arguments p = some i) :
    f.request p = .passed i := by
  rw [Frame.request_taken h, ha]

theorem Frame.request_badArgument {f : Frame} {p : PortId} (h : f.Taken p) (ha : f.arguments p = none) :
    f.request p = .answered (.refuse .badArgument) := by
  rw [Frame.request_taken h, ha]

/-! ### The frame of a request is read as the request -/

/-- The frame of request i, sent on port p, passes the first two checks and reads as i. -/
def Instr.ReadBack (i : Instr) (p : PortId) : Prop :=
  ∃ f, i.requestFrame = some f ∧ f.Taken p ∧ f.arguments p = some i

theorem form_ne_of_gt {form : Byte} (h : form > 1) : form ≠ 0 ∧ form ≠ 1 := by bv_omega

theorem forceArgument_other {b : Byte} (h : b > 1) (level : Byte) : forceArgument b level = some (.other b) :=
  (if_neg (form_ne_of_gt h).1).trans (if_neg (form_ne_of_gt h).2)

theorem evictArgument_other {form : Byte} (h : form > 1) (number : Byte) :
    evictArgument form number = some (.evictHandleForm (.otherForm form)) :=
  (if_neg (form_ne_of_gt h).1).trans (if_neg (form_ne_of_gt h).2)

theorem clearFaultArgument_other {form : Byte} (h : form > 1) (number : Byte) :
    clearFaultArgument form number = some (.clearFaultRailForm (.otherForm form)) :=
  (if_neg (form_ne_of_gt h).1).trans (if_neg (form_ne_of_gt h).2)

theorem Instr.readBack_force {d : DomainId} {arg : ForceArg} (hwf : (Instr.force d arg).wf = true) :
    (Instr.force d arg).ReadBack supervisor := by
  cases arg with
  | other b =>
    exact ⟨_, rfl, Or.inr (by simp [supervisorCommands]),
      by simp [Frame.arguments, argument_numberByte, forceArgument_other (of_decide_eq_true hwf)]⟩
  | _ =>
    exact ⟨_, rfl, Or.inr (by simp [supervisorCommands]),
      by simp [Frame.arguments, argument_numberByte, forceArgument]⟩

theorem Instr.readBack_evictHandleForm {arg : FormArg Handle} (hwf : (Instr.evictHandleForm arg).wf = true) :
    (Instr.evictHandleForm arg).ReadBack supervisor := by
  cases arg with
  | otherForm form =>
    exact ⟨_, rfl, Or.inr (by simp [supervisorCommands]), evictArgument_other (of_decide_eq_true hwf) 0⟩
  | number h =>
    exact ⟨_, rfl, Or.inr (by simp [supervisorCommands]),
      by simp [Frame.arguments, argument_numberByte, evictArgument]⟩

theorem Instr.readBack_clearFaultRailForm {arg : FormArg RailId} (hwf : (Instr.clearFaultRailForm arg).wf = true) :
    (Instr.clearFaultRailForm arg).ReadBack supervisor := by
  cases arg with
  | otherForm form =>
    exact ⟨_, rfl, Or.inr (by simp [supervisorCommands]), clearFaultArgument_other (of_decide_eq_true hwf) 0⟩
  | number v =>
    exact ⟨_, rfl, Or.inr (by simp [supervisorCommands]),
      by simp [Frame.arguments, argument_numberByte, clearFaultArgument]⟩

/-- Every well-formed request is read back from its frame on the port that may send it. -/
theorem Instr.readBack {i : Instr} {p : PortId} (hwf : i.wf = true) (hrequester : i.requester = some p) :
    i.ReadBack p := by
  cases i with
  | file | renew | release | readDemand | nextDemand | readDomain | readRail | readPoint | takeNotice =>
    cases hrequester
    exact ⟨_, rfl, Or.inl (by simp [anyPortCommands]),
      by simp [Frame.arguments, argument_numberByte, classArgument_classByte, highByte_append_lowByte]⟩
  | setPoint | setLevels | setThrottle | setTimes | map | setPark | setConsent | setRail | setQuota | openPhase
  | closePhase | restartTables | readPort =>
    cases hrequester
    exact ⟨_, rfl, Or.inr (by simp [supervisorCommands]), by simp [Frame.arguments, argument_numberByte]⟩
  | force d arg => cases hrequester; exact Instr.readBack_force hwf
  | evictHandleForm arg => cases hrequester; exact Instr.readBack_evictHandleForm hwf
  | evictPortForm q =>
    cases hrequester
    exact ⟨_, rfl, Or.inr (by simp [supervisorCommands]),
      by simp [Frame.arguments, argument_numberByte, evictArgument]⟩
  | clearFaultRailForm arg => cases hrequester; exact Instr.readBack_clearFaultRailForm hwf
  | clearFaultDomainForm d =>
    cases hrequester
    exact ⟨_, rfl, Or.inr (by simp [supervisorCommands]),
      by simp [Frame.arguments, argument_numberByte, clearFaultArgument]⟩
  | _ => cases hrequester

/-! ### What a frame says, byte by byte (Table 10-3) -/

theorem argumentBytes_le (f : Frame) : Machine.argumentBytes f ≤ 6 := by
  unfold Machine.argumentBytes
  repeat' split
  all_goals omega

/-- Two frames agree in so many bytes behind the command code. -/
theorem Frame.bytes_agree_iff {f g : Frame} {k : Nat} (hk : k ≤ 6) :
    (∀ n, n ≤ k → g.byteAt n = f.byteAt n) ↔ g.b0 = f.b0 ∧ (1 ≤ k → g.b1 = f.b1) ∧ (2 ≤ k → g.b2 = f.b2) ∧
      (3 ≤ k → g.b3 = f.b3) ∧ (4 ≤ k → g.b4 = f.b4) ∧ (5 ≤ k → g.b5 = f.b5) ∧ (6 ≤ k → g.b6 = f.b6) := by
  refine ⟨fun h => ⟨h 0 (Nat.zero_le k), h 1, h 2, h 3, h 4, h 5, h 6⟩, ?_⟩
  rintro ⟨h0, h1, h2, h3, h4, h5, h6⟩ n hn
  match n, hn with
  | 0, _ => exact h0
  | 1, hn => exact h1 hn
  | 2, hn => exact h2 hn
  | 3, hn => exact h3 hn
  | 4, hn => exact h4 hn
  | 5, hn => exact h5 hn
  | 6, hn => exact h6 hn
  | n + 7, hn => omega

/-- Frame f asks for request i on port p: i is well formed, has the command code of f and the requester that it needs,
and its own frame agrees with f in every byte that the command reads. -/
structure Frame.Asks (f : Frame) (p : PortId) (i : Instr) : Prop where
  wf : i.wf = true
  code : i.commandCode = f.b0
  requester : i.requester = some (if f.b0 ∈ supervisorCommands then supervisor else p)
  frame : ∃ g, i.requestFrame = some g ∧ g.b0 = f.b0 ∧
    ∀ n, n ≤ Machine.argumentBytes f → g.byteAt n = f.byteAt n

theorem byte_eq_of_toNat {b : Byte} {k : Nat} (h : b.toNat = k) : b = BitVec.ofNat 8 k := by
  rw [← h, BitVec.ofNat_toNat, BitVec.setWidth_eq]

theorem forceArgument_eq_some {b level : Byte} {arg : ForceArg} (h : forceArgument b level = some arg) :
    (b = 0 ∧ arg = .clear) ∨ (b = 1 ∧ ∃ l, level = numberByte l ∧ arg = .set l) ∨
      (b > 1 ∧ arg = .other b) := by
  unfold forceArgument at h
  split at h
  · next h0 => cases h; exact Or.inl ⟨h0, rfl⟩
  · next h0 =>
    split at h
    · next h1 =>
      obtain ⟨l, hl, rfl⟩ := Option.map_eq_some_iff.1 h
      exact Or.inr (Or.inl ⟨h1, l, (argument_eq_some_iff (by decide)).1 hl, rfl⟩)
    · next h1 => cases h; exact Or.inr (Or.inr ⟨by bv_omega, rfl⟩)

theorem evictArgument_eq_some {form number : Byte} {i : Instr} (h : evictArgument form number = some i) :
    (form = 0 ∧ ∃ k, number = numberByte k ∧ i = .evictHandleForm (.number k)) ∨
      (form = 1 ∧ ∃ q, number = numberByte q ∧ i = .evictPortForm q) ∨
      (form > 1 ∧ i = .evictHandleForm (.otherForm form)) := by
  unfold evictArgument at h
  split at h
  · next h0 =>
    obtain ⟨k, hk, rfl⟩ := Option.map_eq_some_iff.1 h
    exact Or.inl ⟨h0, k, (argument_eq_some_iff (by decide)).1 hk, rfl⟩
  · next h0 =>
    split at h
    · next h1 =>
      obtain ⟨q, hq, rfl⟩ := Option.map_eq_some_iff.1 h
      exact Or.inr (Or.inl ⟨h1, q, (argument_eq_some_iff (by decide)).1 hq, rfl⟩)
    · next h1 => cases h; exact Or.inr (Or.inr ⟨by bv_omega, rfl⟩)

theorem clearFaultArgument_eq_some {form number : Byte} {i : Instr} (h : clearFaultArgument form number = some i) :
    (form = 0 ∧ ∃ v, number = numberByte v ∧ i = .clearFaultRailForm (.number v)) ∨
      (form = 1 ∧ ∃ d, number = numberByte d ∧ i = .clearFaultDomainForm d) ∨
      (form > 1 ∧ i = .clearFaultRailForm (.otherForm form)) := by
  unfold clearFaultArgument at h
  split at h
  · next h0 =>
    obtain ⟨v, hv, rfl⟩ := Option.map_eq_some_iff.1 h
    exact Or.inl ⟨h0, v, (argument_eq_some_iff (by decide)).1 hv, rfl⟩
  · next h0 =>
    split at h
    · next h1 =>
      obtain ⟨d, hd, rfl⟩ := Option.map_eq_some_iff.1 h
      exact Or.inr (Or.inl ⟨h1, d, (argument_eq_some_iff (by decide)).1 hd, rfl⟩)
    · next h1 => cases h; exact Or.inr (Or.inr ⟨by bv_omega, rfl⟩)

/-- A request whose own frame starts with the command code of f and agrees with it in the bytes that are read. -/
theorem Frame.Asks.of_frame {f g : Frame} {p : PortId} {i : Instr} (hwf : i.wf = true) (hframe : i.requestFrame = some g)
    (hcode : i.commandCode = f.b0)
    (hrequester : i.requester = some (if f.b0 ∈ supervisorCommands then supervisor else p))
    (hbytes : g.b0 = f.b0 ∧ (1 ≤ Machine.argumentBytes f → g.b1 = f.b1) ∧ (2 ≤ Machine.argumentBytes f → g.b2 = f.b2) ∧
      (3 ≤ Machine.argumentBytes f → g.b3 = f.b3) ∧ (4 ≤ Machine.argumentBytes f → g.b4 = f.b4) ∧
      (5 ≤ Machine.argumentBytes f → g.b5 = f.b5) ∧ (6 ≤ Machine.argumentBytes f → g.b6 = f.b6)) : f.Asks p i :=
  ⟨hwf, hcode, hrequester, g, hframe, hbytes.1, (Frame.bytes_agree_iff (argumentBytes_le f)).2 hbytes⟩

/-- What the third check passes on, a frame asks for. -/
theorem Frame.asks {f : Frame} {p : PortId} {i : Instr} (h : f.arguments p = some i) : f.Asks p i := by
  obtain ⟨b0, b1, b2, b3, b4, b5, b6, b7⟩ := f
  unfold Frame.arguments at h
  split at h
  case h_1 hcode =>
    obtain rfl := byte_eq_of_toNat hcode
    simp only [Option.bind_eq_bind, Option.bind_eq_some_iff, argument_eq_some_iff, classArgument_eq_some_iff,
      Nat.reduceLeDiff, Option.pure_def, Option.some.injEq] at h
    obtain ⟨d, rfl, cls, rfl, level, rfl, rfl⟩ := h
    exact .of_frame rfl rfl rfl (by simp [Instr.requester, supervisorCommands])
      (by simp [Machine.argumentBytes, highByte_append, lowByte_append])
  -- the commands with one number
  case h_2 hcode | h_3 hcode | h_4 hcode | h_5 hcode | h_6 hcode | h_7 hcode | h_8 hcode | h_13 hcode | h_15 hcode
      | h_17 hcode | h_18 hcode | h_25 hcode =>
    obtain rfl := byte_eq_of_toNat hcode
    simp only [Option.map_eq_some_iff, argument_eq_some_iff, Nat.reduceLeDiff] at h
    obtain ⟨number, rfl, rfl⟩ := h
    exact .of_frame rfl rfl rfl (by simp [Instr.requester, supervisorCommands])
      (by simp [Machine.argumentBytes, highByte_append, lowByte_append])
  -- the commands with two numbers
  case h_10 hcode | h_12 hcode | h_14 hcode =>
    obtain rfl := byte_eq_of_toNat hcode
    simp only [Option.bind_eq_bind, Option.bind_eq_some_iff, argument_eq_some_iff,
      Nat.reduceLeDiff, Option.pure_def, Option.some.injEq] at h
    obtain ⟨first, rfl, second, rfl, rfl⟩ := h
    exact .of_frame rfl rfl rfl (by simp [Instr.requester, supervisorCommands]) (by simp [Machine.argumentBytes])
  -- SET-LEVELS
  case h_11 hcode =>
    obtain rfl := byte_eq_of_toNat hcode
    simp only [Option.bind_eq_bind, Option.bind_eq_some_iff, argument_eq_some_iff,
      Nat.reduceLeDiff, Option.pure_def, Option.some.injEq] at h
    obtain ⟨d, rfl, rest, rfl, safe, rfl, low, rfl, high, rfl, rfl⟩ := h
    exact .of_frame rfl rfl rfl (by simp [Instr.requester, supervisorCommands]) (by simp [Machine.argumentBytes])
  -- the commands without a number
  case h_9 hcode | h_16 hcode | h_19 hcode | h_20 hcode | h_24 hcode =>
    obtain rfl := byte_eq_of_toNat hcode
    cases h
    exact .of_frame rfl rfl rfl (by simp [Instr.requester, supervisorCommands]) (by simp [Machine.argumentBytes])
  -- FORCE, EVICT and CLEAR-FAULT, by their forms
  case h_21 hcode =>
    obtain rfl := byte_eq_of_toNat hcode
    simp only [Option.bind_eq_bind, Option.bind_eq_some_iff, argument_eq_some_iff,
      Nat.reduceLeDiff, Option.pure_def, Option.some.injEq] at h
    obtain ⟨d, rfl, arg, harg, rfl⟩ := h
    obtain ⟨rfl, rfl⟩ | ⟨rfl, level, rfl, rfl⟩ | ⟨hother, rfl⟩ := forceArgument_eq_some harg
    · exact .of_frame rfl rfl rfl (by simp [Instr.requester, supervisorCommands]) (by simp [Machine.argumentBytes])
    · exact .of_frame rfl rfl rfl (by simp [Instr.requester, supervisorCommands]) (by simp [Machine.argumentBytes])
    · have hne : b2 ≠ 1#8 := (form_ne_of_gt hother).2
      exact .of_frame (decide_eq_true hother) rfl rfl (by simp [Instr.requester, supervisorCommands])
        (by simp [Machine.argumentBytes, hne])
  case h_22 hcode =>
    obtain rfl := byte_eq_of_toNat hcode
    obtain ⟨rfl, number, rfl, rfl⟩ | ⟨rfl, number, rfl, rfl⟩ | ⟨hother, rfl⟩ := evictArgument_eq_some h
    · exact .of_frame rfl rfl rfl (by simp [Instr.requester, supervisorCommands]) (by simp [Machine.argumentBytes])
    · exact .of_frame rfl rfl rfl (by simp [Instr.requester, supervisorCommands]) (by simp [Machine.argumentBytes])
    · have hnot : ¬b1.toNat ≤ 1 := by bv_omega
      exact .of_frame (decide_eq_true hother) rfl rfl (by simp [Instr.requester, supervisorCommands])
        (by simp [Machine.argumentBytes, hnot])
  case h_23 hcode =>
    obtain rfl := byte_eq_of_toNat hcode
    obtain ⟨rfl, number, rfl, rfl⟩ | ⟨rfl, number, rfl, rfl⟩ | ⟨hother, rfl⟩ := clearFaultArgument_eq_some h
    · exact .of_frame rfl rfl rfl (by simp [Instr.requester, supervisorCommands]) (by simp [Machine.argumentBytes])
    · exact .of_frame rfl rfl rfl (by simp [Instr.requester, supervisorCommands]) (by simp [Machine.argumentBytes])
    · have hnot : ¬b1.toNat ≤ 1 := by bv_omega
      exact .of_frame (decide_eq_true hother) rfl rfl (by simp [Instr.requester, supervisorCommands])
        (by simp [Machine.argumentBytes, hnot])
  case h_26 => cases h

/-- The third check reads the bytes of Table 10-3 alone. -/
theorem Frame.arguments_congr {f g : Frame}
    (h : ∀ n, n ≤ Machine.argumentBytes f → g.byteAt n = f.byteAt n) (p : PortId) : g.arguments p = f.arguments p := by
  obtain ⟨h0, h1, h2, h3, h4, h5, h6⟩ := (Frame.bytes_agree_iff (argumentBytes_le f)).1 h
  unfold Frame.arguments
  unfold Machine.argumentBytes at h1 h2 h3 h4 h5 h6
  rw [h0]
  clear h h0
  generalize f.b0.toNat = code at *
  split
  case h_21 =>
    by_cases hset : f.b2 = 1
    · simp_all
    · simp_all [forceArgument]
  case h_22 =>
    by_cases hform : f.b1.toNat ≤ 1
    · simp_all
    · have hother : f.b1 > 1 := by bv_omega
      simp_all [evictArgument_other hother]
  case h_23 =>
    by_cases hform : f.b1.toNat ≤ 1
    · simp_all
    · have hother : f.b1 > 1 := by bv_omega
      simp_all [clearFaultArgument_other hother]
  all_goals simp_all

/-! ### The checks of a port, by command code (Tables 9-3 and 10-3) -/

theorem Frame.request_passes {f : Frame} {p : PortId} (h : f.Taken p) (ha : (f.arguments p).isSome) :
    ∃ i, f.request p = .passed i := by
  obtain ⟨i, hi⟩ := Option.isSome_iff_exists.1 ha
  exact ⟨i, Frame.request_passed h hi⟩

theorem Frame.Asks.requester_of_taken {f : Frame} {p : PortId} {i : Instr} (h : f.Asks p i) (htaken : f.Taken p) :
    i.requester = some p := by
  rw [h.requester]
  obtain ⟨hany, -⟩ | ⟨hsup, hp⟩ := htaken
  · rw [if_neg fun hsup => (supervisorCommands_disjoint _ hsup).1 hany]
  · rw [if_pos hsup, hp]

theorem classArgument_of_le {b : Byte} (h : b.toNat ≤ 1) : ∃ cls, classArgument b = some cls := by
  by_cases h0 : b = 0
  · exact ⟨.floor, if_pos h0⟩
  · exact ⟨.cap, (if_neg h0).trans (if_pos (by bv_omega))⟩

theorem Frame.taken_supervisor {f : Frame} (h : f.b0 ∈ supervisorCommands) : f.Taken supervisor := Or.inr ⟨h, rfl⟩

theorem argument_none_of_gt {n : Nat} {b : Byte} (h : b.toNat > n) : argument (n + 1) b = none :=
  Machine.argument_eq_none h

section Codes
variable {f : Frame} {p : PortId}

/-- FILE with a domain, class or level out of range. -/
theorem Frame.arguments_file_none (hcode : f.b0 = 0x10)
    (h : f.b1.toNat > 11 ∨ f.b2.toNat > 1 ∨ f.b3.toNat > 15) : f.arguments p = none := by
  simp only [Frame.arguments, hcode]
  obtain h | h | h := h
  · simp [argument_none_of_gt h]
  · cases argument 12 f.b1 <;> simp [classArgument_eq_none h]
  · cases argument 12 f.b1 <;> cases classArgument f.b2 <;> simp [argument_none_of_gt h]

theorem Frame.arguments_handle_none (hcode : f.b0 ∈ [0x11, 0x12, 0x18, 0x19]) (h : f.b1.toNat > 63) :
    f.arguments p = none := by
  simp only [List.mem_cons, List.not_mem_nil, or_false] at hcode
  obtain hcode | hcode | hcode | hcode := hcode <;> simp [Frame.arguments, hcode, argument_none_of_gt h]

/-- The supervisor's commands on a domain that does not exist. -/
theorem Frame.arguments_domain_none (hcode : f.b0 ∈ [0x40, 0x41, 0x42, 0x43, 0x44, 0x45, 0x52])
    (h : f.b1.toNat > 11) : f.arguments p = none := by
  simp only [List.mem_cons, List.not_mem_nil, or_false] at hcode
  obtain hcode | hcode | hcode | hcode | hcode | hcode | hcode := hcode <;>
    simp [Frame.arguments, hcode, argument_none_of_gt h]

theorem Frame.arguments_setPoint_none (hcode : f.b0 = 0x40) (h : f.b2.toNat > 15) : f.arguments p = none := by
  simp only [Frame.arguments, hcode]
  cases argument 12 f.b1 <;> simp [argument_none_of_gt h]

theorem Frame.arguments_setLevels_none (hcode : f.b0 = 0x41)
    (h : f.b2.toNat > 15 ∨ f.b3.toNat > 15 ∨ f.b4.toNat > 15 ∨ f.b5.toNat > 15) : f.arguments p = none := by
  simp only [Frame.arguments, hcode]
  cases argument 12 f.b1 with
  | none => rfl
  | some d =>
    obtain h | h | h | h := h
    · simp [argument_none_of_gt h]
    · cases argument 16 f.b2 <;> simp [argument_none_of_gt h]
    · cases argument 16 f.b2 <;> cases argument 16 f.b3 <;> simp [argument_none_of_gt h]
    · cases argument 16 f.b2 <;> cases argument 16 f.b3 <;> cases argument 16 f.b4 <;> simp [argument_none_of_gt h]

theorem Frame.arguments_setThrottle_none (hcode : f.b0 = 0x42) (h : f.b3.toNat > 15) : f.arguments p = none := by
  simp only [Frame.arguments, hcode]
  cases argument 12 f.b1 <;> simp [argument_none_of_gt h]

theorem Frame.arguments_map_none (hcode : f.b0 = 0x44) (h : f.b2.toNat > 3) : f.arguments p = none := by
  simp only [Frame.arguments, hcode]
  cases argument 12 f.b1 <;> simp [argument_none_of_gt h]

theorem Frame.arguments_force_none (hcode : f.b0 = 0x52) (hset : f.b2 = 1) (h : f.b3.toNat > 15) :
    f.arguments p = none := by
  simp only [Frame.arguments, hcode]
  cases argument 12 f.b1 <;> simp [forceArgument, hset, argument_none_of_gt h]

theorem Frame.arguments_evict_none (hcode : f.b0 = 0x53)
    (h : (f.b1 = 0 ∧ f.b2.toNat > 63) ∨ (f.b1 = 1 ∧ f.b2.toNat > 8)) : f.arguments p = none := by
  obtain ⟨hform, h⟩ | ⟨hform, h⟩ := h <;>
    simp [Frame.arguments, hcode, evictArgument, hform, argument_none_of_gt h]

theorem Frame.arguments_clearFault_none (hcode : f.b0 = 0x54)
    (h : (f.b1 = 0 ∧ f.b2.toNat > 3) ∨ (f.b1 = 1 ∧ f.b2.toNat > 11)) : f.arguments p = none := by
  obtain ⟨hform, h⟩ | ⟨hform, h⟩ := h <;>
    simp [Frame.arguments, hcode, clearFaultArgument, hform, argument_none_of_gt h]

theorem argument_isSome_of_le {n : Nat} {b : Byte} (h : b.toNat ≤ n) : ∃ i, argument (n + 1) b = some i :=
  ⟨_, argument_of_lt (Nat.lt_succ_of_le h)⟩

theorem forceArgument_isSome {b level : Byte} (h : b = 1 → level.toNat ≤ 15) : ∃ arg, forceArgument b level = some arg := by
  unfold forceArgument
  split
  · exact ⟨_, rfl⟩
  · split
    · next h1 =>
      obtain ⟨l, hl⟩ := argument_isSome_of_le (h h1)
      exact ⟨.set l, by rw [hl]; rfl⟩
    · exact ⟨_, rfl⟩

theorem evictArgument_isSome {form number : Byte} (h0 : form = 0 → number.toNat ≤ 63)
    (h1 : form = 1 → number.toNat ≤ 8) : (evictArgument form number).isSome := by
  unfold evictArgument
  split
  · next hf => obtain ⟨k, hk⟩ := argument_isSome_of_le (h0 hf); rw [hk]; rfl
  · split
    · next hf => obtain ⟨k, hk⟩ := argument_isSome_of_le (h1 hf); rw [hk]; rfl
    · rfl

theorem clearFaultArgument_isSome {form number : Byte} (h0 : form = 0 → number.toNat ≤ 3)
    (h1 : form = 1 → number.toNat ≤ 11) : (clearFaultArgument form number).isSome := by
  unfold clearFaultArgument
  split
  · next hf => obtain ⟨k, hk⟩ := argument_isSome_of_le (h0 hf); rw [hk]; rfl
  · split
    · next hf => obtain ⟨k, hk⟩ := argument_isSome_of_le (h1 hf); rw [hk]; rfl
    · rfl

/-- The commands of any port with arguments in range. -/
def Frame.InRangeAny (f : Frame) : Prop :=
  f.b0 = 0x10 ∧ f.b1.toNat ≤ 11 ∧ f.b2.toNat ≤ 1 ∧ f.b3.toNat ≤ 15 ∨
  f.b0 ∈ [0x11, 0x12, 0x18, 0x19] ∧ f.b1.toNat ≤ 63 ∨
  f.b0 ∈ [0x20, 0x22] ∧ f.b1.toNat ≤ 11 ∨
  f.b0 = 0x21 ∧ f.b1.toNat ≤ 3 ∨
  f.b0 = 0x28

theorem Frame.passes_any (h : f.InRangeAny) : ∃ i, f.request p = .passed i := by
  obtain ⟨hcode, h1, h2, h3⟩ | ⟨hcode, h1⟩ | ⟨hcode, h1⟩ | ⟨hcode, h1⟩ | hcode := h
  · obtain ⟨d, hd⟩ := argument_isSome_of_le h1
    obtain ⟨cls, hcls⟩ := classArgument_of_le h2
    obtain ⟨level, hlevel⟩ := argument_isSome_of_le h3
    exact Frame.request_passes (Or.inl (by simp [hcode, anyPortCommands]))
      (by simp [Frame.arguments, hcode, hd, hcls, hlevel])
  · obtain ⟨k, hk⟩ := argument_isSome_of_le h1
    simp only [List.mem_cons, List.not_mem_nil, or_false] at hcode
    obtain hcode | hcode | hcode | hcode := hcode <;>
      exact Frame.request_passes (Or.inl (by simp [hcode, anyPortCommands])) (by simp [Frame.arguments, hcode, hk])
  · obtain ⟨k, hk⟩ := argument_isSome_of_le h1
    simp only [List.mem_cons, List.not_mem_nil, or_false] at hcode
    obtain hcode | hcode := hcode <;>
      exact Frame.request_passes (Or.inl (by simp [hcode, anyPortCommands])) (by simp [Frame.arguments, hcode, hk])
  · obtain ⟨k, hk⟩ := argument_isSome_of_le h1
    exact Frame.request_passes (Or.inl (by simp [hcode, anyPortCommands])) (by simp [Frame.arguments, hcode, hk])
  · exact Frame.request_passes (Or.inl (by simp [hcode, anyPortCommands])) (by simp [Frame.arguments, hcode])

/-- The commands of the supervisor with arguments in range. -/
def Frame.InRangeSupervisor (f : Frame) : Prop :=
  f.b0 ∈ [0x43, 0x45] ∧ f.b1.toNat ≤ 11 ∨
  f.b0 = 0x40 ∧ f.b1.toNat ≤ 11 ∧ f.b2.toNat ≤ 15 ∨
  f.b0 = 0x41 ∧ f.b1.toNat ≤ 11 ∧ f.b2.toNat ≤ 15 ∧ f.b3.toNat ≤ 15 ∧ f.b4.toNat ≤ 15 ∧ f.b5.toNat ≤ 15 ∨
  f.b0 = 0x42 ∧ f.b1.toNat ≤ 11 ∧ f.b3.toNat ≤ 15 ∨
  f.b0 = 0x44 ∧ f.b1.toNat ≤ 11 ∧ f.b2.toNat ≤ 3 ∨
  f.b0 = 0x47 ∧ f.b1.toNat ≤ 3 ∨
  f.b0 ∈ [0x48, 0x58] ∧ f.b1.toNat ≤ 8 ∨
  f.b0 ∈ [0x46, 0x50, 0x51, 0x55] ∨
  f.b0 = 0x52 ∧ f.b1.toNat ≤ 11 ∧ (f.b2 = 1 → f.b3.toNat ≤ 15) ∨
  f.b0 = 0x53 ∧ (f.b1 = 0 → f.b2.toNat ≤ 63) ∧ (f.b1 = 1 → f.b2.toNat ≤ 8) ∨
  f.b0 = 0x54 ∧ (f.b1 = 0 → f.b2.toNat ≤ 3) ∧ (f.b1 = 1 → f.b2.toNat ≤ 11)

theorem Frame.passes_supervisor (h : f.InRangeSupervisor) : ∃ i, f.request supervisor = .passed i := by
  obtain ⟨hcode, h1⟩ | ⟨hcode, h1, h2⟩ | ⟨hcode, h1, h2, h3, h4, h5⟩ | ⟨hcode, h1, h3⟩ | ⟨hcode, h1, h2⟩ |
    ⟨hcode, h1⟩ | ⟨hcode, h1⟩ | hcode | ⟨hcode, h1, h3⟩ | ⟨hcode, h0, h1⟩ | ⟨hcode, h0, h1⟩ := h
  · obtain ⟨d, hd⟩ := argument_isSome_of_le h1
    simp only [List.mem_cons, List.not_mem_nil, or_false] at hcode
    obtain hcode | hcode := hcode <;>
      exact Frame.request_passes (Frame.taken_supervisor (by simp [hcode, supervisorCommands]))
        (by simp [Frame.arguments, hcode, hd])
  · obtain ⟨d, hd⟩ := argument_isSome_of_le h1
    obtain ⟨l, hl⟩ := argument_isSome_of_le h2
    exact Frame.request_passes (Frame.taken_supervisor (by simp [hcode, supervisorCommands]))
      (by simp [Frame.arguments, hcode, hd, hl])
  · obtain ⟨d, hd⟩ := argument_isSome_of_le h1
    obtain ⟨rest, hrest⟩ := argument_isSome_of_le h2
    obtain ⟨safe, hsafe⟩ := argument_isSome_of_le h3
    obtain ⟨low, hlow⟩ := argument_isSome_of_le h4
    obtain ⟨high, hhigh⟩ := argument_isSome_of_le h5
    exact Frame.request_passes (Frame.taken_supervisor (by simp [hcode, supervisorCommands]))
      (by simp [Frame.arguments, hcode, hd, hrest, hsafe, hlow, hhigh])
  · obtain ⟨d, hd⟩ := argument_isSome_of_le h1
    obtain ⟨l, hl⟩ := argument_isSome_of_le h3
    exact Frame.request_passes (Frame.taken_supervisor (by simp [hcode, supervisorCommands]))
      (by simp [Frame.arguments, hcode, hd, hl])
  · obtain ⟨d, hd⟩ := argument_isSome_of_le h1
    obtain ⟨v, hv⟩ := argument_isSome_of_le h2
    exact Frame.request_passes (Frame.taken_supervisor (by simp [hcode, supervisorCommands]))
      (by simp [Frame.arguments, hcode, hd, hv])
  · obtain ⟨v, hv⟩ := argument_isSome_of_le h1
    exact Frame.request_passes (Frame.taken_supervisor (by simp [hcode, supervisorCommands]))
      (by simp [Frame.arguments, hcode, hv])
  · obtain ⟨q, hq⟩ := argument_isSome_of_le h1
    simp only [List.mem_cons, List.not_mem_nil, or_false] at hcode
    obtain hcode | hcode := hcode <;>
      exact Frame.request_passes (Frame.taken_supervisor (by simp [hcode, supervisorCommands]))
        (by simp [Frame.arguments, hcode, hq])
  · simp only [List.mem_cons, List.not_mem_nil, or_false] at hcode
    obtain hcode | hcode | hcode | hcode := hcode <;>
      exact Frame.request_passes (Frame.taken_supervisor (by simp [hcode, supervisorCommands]))
        (by simp [Frame.arguments, hcode])
  · obtain ⟨d, hd⟩ := argument_isSome_of_le h1
    obtain ⟨arg, harg⟩ := forceArgument_isSome h3
    exact Frame.request_passes (Frame.taken_supervisor (by simp [hcode, supervisorCommands]))
      (by simp [Frame.arguments, hcode, hd, harg])
  · exact Frame.request_passes (Frame.taken_supervisor (by simp [hcode, supervisorCommands]))
      (by simpa [Frame.arguments, hcode] using evictArgument_isSome h0 h1)
  · exact Frame.request_passes (Frame.taken_supervisor (by simp [hcode, supervisorCommands]))
      (by simpa [Frame.arguments, hcode] using clearFaultArgument_isSome h0 h1)

end Codes

theorem Frame.request_congr {f g : Frame} (h : ∀ n, n ≤ Machine.argumentBytes f → g.byteAt n = f.byteAt n)
    (p : PortId) : g.request p = f.request p := by
  have h0 : g.b0 = f.b0 := h 0 (Nat.zero_le _)
  rw [Frame.request, Frame.request, h0, Frame.arguments_congr h]

end Sys2Proof

/-! ### The statements -/

namespace Sys2Proof.Ports

open Sys2Proof.Machine

/-- Settles O4: a request's own frame is read back, and what is passed on has the frame that was read. -/
theorem requestFramesRoundTrip : Obligations.RequestFramesRoundTrip := by
  refine ⟨fun i p hwf hrequester => ?_, fun f p i hpassed => ?_⟩
  · obtain ⟨f, hf, htaken, hargs⟩ := Instr.readBack hwf hrequester
    exact ⟨f, hf, Frame.request_passed htaken hargs⟩
  · obtain ⟨htaken, hargs⟩ := Frame.taken_of_passed hpassed
    have hasks := Frame.asks hargs
    obtain ⟨g, hg, hb0, -⟩ := hasks.frame
    exact ⟨hasks.wf, hasks.requester_of_taken htaken, hasks.code, g, hg, hb0⟩

/-- Settles O5: the first two checks look at the command code, and the third at the arguments of its row. -/
theorem portChecksInOrder : Obligations.PortChecksInOrder := by
  intro f p
  refine ⟨fun hany hsup => if_pos ⟨hany, hsup⟩, fun hsup hp => ?_, fun h0 => ?_, fun hcode h => ?_, fun hcode h => ?_,
    fun hcode h => ?_, fun hcode h => ?_, fun hp => ?supervisor, fun h => ?passes, fun i hpassed => ?_,
    fun g hg => Frame.request_congr hg p⟩
  · exact (if_neg fun h => h.2 hsup).trans (if_pos ⟨hsup, hp⟩)
  · rw [Frame.request, if_neg (fun h => h.1 (by simp [h0, anyPortCommands])),
      if_neg (fun h => (supervisorCommands_disjoint _ h.1).2 h0), if_pos h0]
    rfl
  · exact Frame.request_badArgument (Or.inl (by simp [hcode, anyPortCommands])) (Frame.arguments_file_none hcode h)
  · refine Frame.request_badArgument (Or.inl ?_) (Frame.arguments_handle_none hcode h)
    simp only [List.mem_cons, List.not_mem_nil, or_false] at hcode
    obtain hcode | hcode | hcode | hcode := hcode <;> simp [hcode, anyPortCommands]
  · simp only [List.mem_cons, List.not_mem_nil, or_false] at hcode
    obtain hcode | hcode := hcode <;>
      exact Frame.request_badArgument (Or.inl (by simp [hcode, anyPortCommands]))
        (by simp [Frame.arguments, hcode, argument_none_of_gt h])
  · exact Frame.request_badArgument (Or.inl (by simp [hcode, anyPortCommands]))
      (by simp [Frame.arguments, hcode, argument_none_of_gt h])
  case supervisor =>
    subst hp
    refine ⟨fun hcode h => ?_, fun hcode h => ?_, fun hcode h => ?_, fun hcode h => ?_, fun hcode h => ?_,
      fun hcode hset h => ?_, fun hcode hset h => ?_, fun hcode h => ?_, fun hcode h => ?_, fun hcode h => ?_,
      fun hcode h => ?_, fun hcode h => ?_⟩
    · refine Frame.request_badArgument (Frame.taken_supervisor ?_) (Frame.arguments_domain_none hcode h)
      simp only [List.mem_cons, List.not_mem_nil, or_false] at hcode
      obtain hcode | hcode | hcode | hcode | hcode | hcode | hcode := hcode <;> simp [hcode, supervisorCommands]
    · exact Frame.request_badArgument (Frame.taken_supervisor (by simp [hcode, supervisorCommands]))
        (Frame.arguments_setPoint_none hcode h)
    · exact Frame.request_badArgument (Frame.taken_supervisor (by simp [hcode, supervisorCommands]))
        (Frame.arguments_setLevels_none hcode h)
    · exact Frame.request_badArgument (Frame.taken_supervisor (by simp [hcode, supervisorCommands]))
        (Frame.arguments_setThrottle_none hcode h)
    · exact Frame.request_badArgument (Frame.taken_supervisor (by simp [hcode, supervisorCommands]))
        (Frame.arguments_map_none hcode h)
    · exact Frame.request_badArgument (Frame.taken_supervisor (by simp [hcode, supervisorCommands]))
        (Frame.arguments_force_none hcode hset h)
    · have hclear : f.b2 ≠ 1#8 := hset
      exact Frame.passes_supervisor (by simp [Frame.InRangeSupervisor, hcode, h, hclear])
    · exact Frame.request_badArgument (Frame.taken_supervisor (by simp [hcode, supervisorCommands]))
        (by simp [Frame.arguments, hcode, argument_none_of_gt h])
    · simp only [List.mem_cons, List.not_mem_nil, or_false] at hcode
      obtain hcode | hcode := hcode <;>
        exact Frame.request_badArgument (Frame.taken_supervisor (by simp [hcode, supervisorCommands]))
          (by simp [Frame.arguments, hcode, argument_none_of_gt h])
    · exact Frame.request_badArgument (Frame.taken_supervisor (by simp [hcode, supervisorCommands]))
        (Frame.arguments_evict_none hcode h)
    · have h0 : f.b1 ≠ 0#8 ∧ f.b1 ≠ 1#8 := form_ne_of_gt (BitVec.lt_def.2 h)
      simp only [List.mem_cons, List.not_mem_nil, or_false] at hcode
      obtain hcode | hcode := hcode <;>
        exact Frame.passes_supervisor (by simp [Frame.InRangeSupervisor, hcode, h0.1, h0.2])
    · exact Frame.request_badArgument (Frame.taken_supervisor (by simp [hcode, supervisorCommands]))
        (Frame.arguments_clearFault_none hcode h)
  case passes =>
    obtain h | h | h | h | h | ⟨rfl, h⟩ := h
    · exact Frame.passes_any (Or.inl h)
    · exact Frame.passes_any (Or.inr (Or.inl h))
    · exact Frame.passes_any (Or.inr (Or.inr (Or.inl h)))
    · exact Frame.passes_any (Or.inr (Or.inr (Or.inr (Or.inl h))))
    · exact Frame.passes_any (Or.inr (Or.inr (Or.inr (Or.inr h))))
    · exact Frame.passes_supervisor h
  · obtain ⟨-, hargs⟩ := Frame.taken_of_passed hpassed
    obtain ⟨g, hg, -, hbytes⟩ := (Frame.asks hargs).frame
    exact ⟨g, hg, hbytes⟩

end Sys2Proof.Ports
end

section
/-! PROOFS. What a first bit finds and what a transaction shifts out, and with that the statements on transactions. -/

-- The proofs are elaborated one after another: side by side they would exceed the memory that the check allows.
set_option Elab.async false

namespace Sys2Proof.Machine

/-! ### The status byte (R149, Table 10-1) -/

theorem statusByte_bits (framing alert : Bool) : ∀ code : Byte, code.toNat < 64 →
    (statusByte framing alert code).getLsbD 7 = framing ∧ (statusByte framing alert code).getLsbD 6 = alert ∧
      (statusByte framing alert code).extractLsb' 0 6 = code.extractLsb' 0 6 := by
  cases framing <;> cases alert <;> decide

/-! ### The frame that a first bit shifts out -/

theorem View.shows_iff {v : View} {alert : Bool} {g : Frame} : v.Shows alert g ↔ g = v.frame alert := by
  refine Eq.to_iff (congrArg (g = ·) ?_)
  unfold View.frame
  split
  · cases v.slot <;> rfl
  · rfl

/-- The frame that a port which is present shows carries its flags. -/
theorem View.frame_flags {v : View} (hslot : ∀ r, v.slot = .ready r → r.b0.toNat < 64) (alert : Bool)
    (hpresent : v.present = true) :
    (v.frame alert).b0.getLsbD 7 = v.framing ∧ (v.frame alert).b0.getLsbD 6 = alert := by
  unfold View.frame
  rw [if_pos hpresent]
  cases hs : v.slot with
  | empty => obtain ⟨h7, h6, -⟩ := statusByte_bits v.framing alert 0x01 (by decide); exact ⟨h7, h6⟩
  | working => obtain ⟨h7, h6, -⟩ := statusByte_bits v.framing alert 0x02 (by decide); exact ⟨h7, h6⟩
  | ready r => obtain ⟨h7, h6, -⟩ := statusByte_bits v.framing alert r.b0 (hslot r hs); exact ⟨h7, h6⟩

/-- An absent port shows its marker, with both flags clear (R158). -/
theorem View.frame_absent {v : View} (habsent : v.present = false) (alert : Bool) : v.frame alert = marker .absent := by
  rw [View.frame, if_neg (by rw [habsent]; nofun)]

/-! ### How a transaction began -/

theorem fallenSince_iff {back : Nat} {views : List View} :
    fallenSince back views = true ↔ ∃ k < back, ∃ w x, views[k]? = some w ∧ views[k + 1]? = some x ∧
      w.present = false ∧ x.present = true := by
  induction back generalizing views with
  | zero => simp [fallenSince]
  | succ back ih =>
    match views with
    | [] => simp [fallenSince]
    | [v] => simp [fallenSince]
    | v :: w :: rest =>
      rw [fallenSince, Bool.or_eq_true, Bool.and_eq_true, Bool.not_eq_true', ih]
      constructor
      · rintro (⟨hv, hw⟩ | ⟨k, hk, x, y, hx, hy, hfall⟩)
        · exact ⟨0, Nat.succ_pos back, v, w, rfl, rfl, hv, hw⟩
        · exact ⟨k + 1, Nat.succ_lt_succ hk, x, y, hx, hy, hfall⟩
      · rintro ⟨k, hk, x, y, hx, hy, hfall⟩
        cases k with
        | zero =>
          cases hx
          cases hy
          exact Or.inl hfall
        | succ k => exact Or.inr ⟨k, Nat.lt_of_succ_lt_succ hk, x, y, hx, hy, hfall⟩

section Began
variable {s : State} {p : PortId} {start : FirstBit}

/-- What the statements say of the beginning of a transaction is what the port works out at its release. -/
theorem State.begun_of_began {v : View} {g : Frame} {bytes : Nat} {cut : Bool}
    (h : s.Began p v g bytes cut start) : ∃ b, s.begun p start = some b ∧ b.view = v ∧ b.frame = g ∧
      b.cut.isSome = cut ∧ b.cut.getD 8 = bytes := by
  cases start with
  | now =>
    obtain ⟨rfl, hshows, rfl, rfl⟩ := h
    exact ⟨_, rfl, rfl, (View.shows_iff.1 hshows).symm, rfl, rfl⟩
  | earlier back alert n =>
    obtain ⟨hview, halert, hshows, hcut, rfl⟩ := h
    have hfallen : cut = fallenSince back (s.view p :: (s.port p).past) := by
      rw [Bool.eq_iff_iff, hcut, fallenSince_iff]
    refine ⟨{ view := v, alert := alert, cut := if cut then some n else none }, ?_, rfl,
      (View.shows_iff.1 hshows).symm, by cases cut <;> rfl, by cases cut <;> rfl⟩
    have hshown : (v.varied || decide (alert = v.alert)) = true := by simpa using halert
    simp only [State.begun, hview, hshown, if_true, hfallen]
  | reset => exact h.elim

theorem State.began_of_begun {b : Begun} (h : s.begun p start = some b) :
    s.Began p b.view b.frame (b.cut.getD 8) b.cut.isSome start := by
  cases start with
  | now => cases h; exact ⟨rfl, View.shows_iff.2 rfl, rfl, rfl⟩
  | earlier back alert n =>
    simp only [State.begun] at h
    split at h
    · cases h
    · next v hview =>
      split at h
      · next hshown =>
        cases h
        refine ⟨hview, by simpa using hshown, View.shows_iff.2 rfl, ?_, ?_⟩
        · rw [← fallenSince_iff]
          cases fallenSince back (s.view p :: (s.port p).past) <;> simp
        · cases fallenSince back (s.view p :: (s.port p).past) <;> rfl
      · cases h
  | reset => cases h

theorem State.begun_eq_none (h : ¬∃ v g bytes cut, s.Began p v g bytes cut start) : s.begun p start = none := by
  cases hb : s.begun p start with
  | none => rfl
  | some b => exact absurd ⟨_, _, _, _, State.began_of_begun hb⟩ h

end Began

/-- The levels of SDO, cycle by cycle (R149, R153, R157). -/
theorem State.carried_eq (p : PortId) (b : Begun) (bits : Nat) (shared : List Nat) :
    carried p b.frame (b.cut.getD 8) bits shared =
      { port := p, levels := (List.range (min bits 64)).map (b.level shared) } := by
  refine congrArg (Shifted.mk p) (List.ext_getElem (by simp) fun k hk hk' => ?_)
  simp only [List.getElem_ofFn, List.getElem_map, List.getElem_range, Begun.level]
  refine if_congr Iff.rfl rfl ?_
  have hmsb : b.frame.bitAt k = (b.frame.byteAt (k / 8)).getLsbD (7 - k % 8) := by
    rw [Frame.bitAt, BitVec.getMsbD, decide_eq_true (Nat.mod_lt k (by decide)), Bool.true_and]
  by_cases hbyte : k / 8 < b.cut.getD 8
  · have hlt : k < 8 * b.cut.getD 8 := by omega
    rw [if_pos hbyte, hmsb, decide_eq_true hlt, Bool.true_and]
  · have hge : ¬k < 8 * b.cut.getD 8 := by omega
    rw [if_neg hbyte, decide_eq_false hge, Bool.false_and]

/-- The release of a transaction leaves the port's notes empty and SDO as it was carried. -/
theorem State.shiftOut_carried (s : State) (p : PortId) (b : Begun) (bits : Nat) (shared : List Nat) :
    s.shiftOut p b bits shared = { s.setPort p { s.port p with past := [], since := (s.box p).turns } with
      sdo := some (carried p b.frame (b.cut.getD 8) bits shared) } := by
  rw [State.shiftOut_eq, State.carried_eq]

/-! ### The rows of transactions -/

theorem exec_transaction (p : PortId) (start : FirstBit) (f : Frame) (s : State) :
    exec (.transaction p start f) s = execTransaction p start f s := rfl

theorem exec_malformedTransaction (p : PortId) (start : FirstBit) (bits : Nat) (overlap : Option (List Nat))
    (s : State) :
    exec (.malformedTransaction p start bits overlap) s = execMalformedTransaction p start bits overlap s := rfl

section Rows
variable {s : State} {p : PortId} {start : FirstBit}

theorem FirstBit.ne_reset_of_begun {b : Begun} (h : s.begun p start = some b) : start ≠ .reset := by
  rintro rfl
  cases h

/-- A port change made behind the release of a transaction (R150, R152). -/
theorem State.setPort_shiftOut (b : Begun) (bits : Nat) (shared : List Nat) (q : Port) :
    (s.shiftOut p b bits shared).setPort p q =
      { s.setPort p q with sdo := some (carried p b.frame (b.cut.getD 8) bits shared) } := by
  rw [State.shiftOut_carried]
  exact congrArg (fun t : State => { t with sdo := some (carried p b.frame (b.cut.getD 8) bits shared) })
    (s.setPort_setPort p _ q)

/-- What the port makes of the frame shifted in, from its content `q` (R150, R154, R156). -/
def Port.receiving (q : Port) (p : PortId) (f : Frame) : Port :=
  match f.request p with
  | .answered r => { q with slot := .ready (r.frame f.b0) }
  | .passed i => { q with slot := .working, sent := q.sent ++ [.request i true] }

/-- What was in the slot makes no difference to the frame shifted in. -/
theorem Port.receiving_slot (q : Port) (p : PortId) (f : Frame) (slot : Slot) :
    Port.receiving { q with slot := slot } p f = q.receiving p f := by
  unfold Port.receiving
  cases f.request p <;> rfl

theorem State.receive_shiftOut (b : Begun) (bits : Nat) (shared : List Nat) (q : Port) (f : Frame) :
    ((s.shiftOut p b bits shared).setPort p q).receive p f =
      { s.setPort p (q.receiving p f) with sdo := some (carried p b.frame (b.cut.getD 8) bits shared) } := by
  rw [State.receive_eq, State.setPort_setPort, State.setPort_port_self, State.setPort_shiftOut]
  rfl

/-- A malformed transaction sets FRAMING, but on a port that was absent or has been lost (R152, R157, R158). -/
theorem State.malformed_eq (b : Begun) (bits : Nat) (shared : List Nat) :
    (if !b.view.present || b.cut.isSome then s.shiftOut p b bits shared
      else (s.shiftOut p b bits shared).setFraming p true) =
    { s.setPort p { s.port p with
        past := [], since := (s.box p).turns
        framing := if b.view.present = false ∨ b.cut.isSome = true then (s.port p).framing else true } with
      sdo := some (carried p b.frame (b.cut.getD 8) bits shared) } := by
  by_cases h : b.view.present = false ∨ b.cut.isSome = true
  · have hcond : (!b.view.present || b.cut.isSome) = true := by simpa using h
    rw [if_pos hcond, if_pos h, State.shiftOut_carried]
  · have hcond : ¬(!b.view.present || b.cut.isSome) = true := by simpa using h
    rw [if_neg hcond, if_neg h, State.setFraming, State.setPort_shiftOut, State.shiftOut_port]

end Rows

end Sys2Proof.Machine

/-! ### The statements -/

namespace Sys2Proof.Ports

open Sys2Proof.Machine

/-- Settles O8, over the frames that a first bit can show. -/
theorem firstBitFindsSlotAndFlags : Obligations.FirstBitFindsSlotAndFlags := by
  refine ⟨fun s p => ⟨?alert, ?view, fun v g bytes cut start hbegan hslot => ?found, fun v alert =>
    ⟨_, View.shows_iff.2 rfl⟩⟩, fun b c => ⟨rfl, rfl, rfl, ?turns⟩, fun f framing alert hcode => ?flags⟩
  case alert => rw [State.alert, Bool.and_eq_true, Box.alerting_eq_true]
  case view => rfl
  case turns =>
    rw [Box.become_turns]
    refine if_congr ?_ rfl rfl
    rw [Bool.eq_iff_iff, Box.alerting_eq_true, Box.alerting_eq_true]
  case flags =>
    obtain ⟨h7, h6, hrest⟩ := statusByte_bits framing alert f.b0 hcode
    exact ⟨h7, h6, hrest, rfl⟩
  case found =>
    have habsent : v.present = false → g.b0.getLsbD 7 = false ∧ g.b0.getLsbD 6 = false := by
      intro h
      obtain ⟨b, -, rfl, rfl, -, -⟩ := State.begun_of_began hbegan
      rw [Begun.frame, View.frame_absent h]
      exact ⟨rfl, rfl⟩
    have hsteady : v.present = true → v.varied = false → g.b0.getLsbD 7 = v.framing ∧ g.b0.getLsbD 6 = v.alert := by
      intro hpresent hvaried
      obtain ⟨b, hb, rfl, rfl, -, -⟩ := State.begun_of_began hbegan
      obtain ⟨-, -, halert⟩ := State.begun_eq_some s p hb
      obtain ⟨h7, h6⟩ := View.frame_flags hslot b.alert hpresent
      exact ⟨h7, h6.trans (halert.resolve_left (by rw [hvaried]; nofun))⟩
    refine ⟨fun hpast hturns => ?_, hsteady, habsent⟩
    have hvaried : (s.view p).varied = false := by simp [State.view, hturns]
    have hnow : v = s.view p ∧ cut = false := by
      cases start with
      | now => obtain ⟨hv, -, -, hcut⟩ := hbegan; exact ⟨hv, hcut⟩
      | earlier back alert n =>
        obtain ⟨hv, -, -, hcut, -⟩ := hbegan
        rw [hpast] at hv hcut
        cases back with
        | zero => exact ⟨(Option.some.inj hv).symm, by simpa using hcut⟩
        | succ back => cases hv
      | reset => exact hbegan.elim
    obtain ⟨rfl, hcut⟩ := hnow
    refine ⟨rfl, hcut, ?_⟩
    cases hpresent : (s.view p).present with
    | true => rw [(hsteady hpresent hvaried).2, State.view_alert]
    | false =>
      have hport : (s.port p).present = false := hpresent
      rw [(habsent hpresent).2, State.alert, hport, Bool.false_and]

/-- Settles O7, by what the first bit found. -/
theorem transactionByWhatItShiftsOut : Obligations.TransactionByWhatItShiftsOut := by
  intro s p start f
  refine ⟨fun v g bytes hbegan => ?whole, fun v g bytes hbegan => ?cut, fun hreset => ?reset, fun hstart hnone => ?none⟩
  case whole =>
    obtain ⟨b, hb, rfl, rfl, hcut, -⟩ := State.begun_of_began hbegan
    have hcut8 : b.cut.getD 8 = 8 := by rw [Option.isSome_eq_false_iff, Option.isNone_iff_eq_none] at hcut; rw [hcut]; rfl
    rw [exec_transaction, execTransaction, if_neg (FirstBit.ne_reset_of_begun hb)]
    simp only [hb]
    cases hpresent : b.view.present with
    | false =>
      rw [if_pos (by simp), State.shiftOut_carried, hcut8]
      rfl
    | true =>
      rw [if_neg (by simp [hcut]), if_neg nofun]
      cases hslot : b.view.slot with
      | working =>
        rw [if_pos rfl]
        simp only [State.setFraming]
        rw [State.setPort_shiftOut, State.shiftOut_port, hcut8]
      | empty =>
        rw [if_neg nofun]
        simp only [State.setFraming]
        rw [State.receive_shiftOut, State.shiftOut_port, hcut8]
        rfl
      | ready r =>
        rw [if_neg nofun]
        simp only [State.setFraming, State.emptySlot]
        rw [State.setPort_setPort, State.setPort_port_self, State.receive_shiftOut, Port.receiving_slot,
          State.shiftOut_port, hcut8]
        rfl
  case cut =>
    obtain ⟨b, hb, rfl, rfl, hcut, rfl⟩ := State.begun_of_began hbegan
    rw [exec_transaction, execTransaction, if_neg (FirstBit.ne_reset_of_begun hb)]
    simp only [hb]
    rw [if_pos (by simp [hcut]), State.shiftOut_carried]
  case reset => subst hreset; rfl
  case none =>
    rw [exec_transaction, execTransaction, if_neg hstart, State.begun_eq_none hnone]

/-- Settles O9, by whether the first bit is known and found a port that is still present. -/
theorem malformedTransactionSetsFramingOnly : Obligations.MalformedTransactionSetsFramingOnly := by
  intro s p start bits overlap hmalformed
  have hrow : ¬(bits = 64 ∧ overlap = none) := fun ⟨h, k⟩ => hmalformed.elim (fun hne => hne h) fun hne => hne k
  refine ⟨fun v g bytes cut hbegan => ?known, fun hreset => ?reset, fun hstart hnone => ?none⟩
  case known =>
    obtain ⟨b, hb, rfl, rfl, rfl, rfl⟩ := State.begun_of_began hbegan
    rw [exec_malformedTransaction, execMalformedTransaction, if_neg hrow, if_neg (FirstBit.ne_reset_of_begun hb)]
    simp only [hb]
    rw [State.malformed_eq]
  case reset =>
    subst hreset
    rw [exec_malformedTransaction, execMalformedTransaction, if_neg hrow, if_pos rfl]
    rfl
  case none =>
    rw [exec_malformedTransaction, execMalformedTransaction, if_neg hrow, if_neg hstart, State.begun_eq_none hnone]

end Sys2Proof.Ports
end

section
/-! PROOFS. What a domain does on a resolution, state by state, with what its moves leave of it, and with that the
statements on re-resolutions. -/

-- The proofs are elaborated one after another: side by side they would exceed the memory that the check allows.
set_option Elab.async false

namespace Sys2Proof.Machine

/-! ### What a move leaves of its domain -/

/-- What the moves on a resolution leave of their domain: the result of the resolution, the current level, the fault
cause, the quiet timer, which follows at the end of the event, and the inputs. -/
structure Domain.Unmoved (c e : Domain) : Prop where
  target : e.target = c.target
  source : e.source = c.source
  current : e.current = c.current
  cause : e.cause = c.cause
  quietTimer : e.quietTimer = c.quietTimer

theorem Domain.Unmoved.refl (c : Domain) : c.Unmoved c := ⟨rfl, rfl, rfl, rfl, rfl⟩

section Moves
variable (s : State) (d : DomainId)

theorem State.plan_unmoved : (s.domain d).Unmoved ((s.plan d).domain d) := by
  rw [State.plan_domain]
  split_ifs <;> exact ⟨rfl, rfl, rfl, rfl, rfl⟩

theorem State.withdraw_unmoved : (s.domain d).Unmoved ((s.withdraw d).domain d) := by
  have h := (s.withdrawn d).plan_unmoved d
  rw [← State.withdraw_eq_plan, State.withdrawn_domain] at h
  exact ⟨h.target, h.source, h.current, h.cause, h.quietTimer⟩

theorem State.checkRailStage_unmoved : (s.domain d).Unmoved ((s.checkRailStage d).domain d) := by
  rw [State.checkRailStage_domain]
  split_ifs <;> exact ⟨rfl, rfl, rfl, rfl, rfl⟩

theorem State.beginWake_unmoved : (s.domain d).Unmoved ((s.beginWake d).domain d) := by
  rw [State.beginWake_domain]
  split_ifs <;> exact ⟨rfl, rfl, rfl, rfl, rfl⟩

theorem State.act_unmoved (old : Level) : (s.domain d).Unmoved ((s.act d old).domain d) := by
  cases hstate : (s.domain d).state with
  | steady => rw [State.act_steady hstate]; exact s.plan_unmoved d
  | raising =>
    rw [State.act_raising hstate]
    split
    · exact .refl _
    · exact s.plan_unmoved d
  | consent =>
    rw [State.act_consent hstate]
    split
    · exact s.withdraw_unmoved d
    · exact .refl _
  | parked =>
    rw [State.act_parked hstate]
    split
    · exact s.beginWake_unmoved d
    · rw [State.evaluateParked_domain]; exact .refl _
  | waking stage =>
    cases stage with
    | rail => rw [State.act_rail hstate]; exact s.checkRailStage_unmoved d
    | _ => rw [State.act_other (by simp [hstate])]; exact .refl _
  | _ => rw [State.act_other (by simp [hstate])]; exact .refl _

end Moves

/-! ### A re-resolution, by the state of its domain -/

section Reresolve
variable {s : State} {d : DomainId}

/-- A re-resolution plans from STEADY and, where the target changed, from RAISING. -/
theorem State.reresolve_plans (h : (s.domain d).state = .steady ∨
    (s.domain d).state = .raising ∧ (s.resolution d).1 ≠ (s.domain d).target) :
    s.reresolve d = ((s.resolve d).plan d).finish d := by
  have hdomain := s.resolve_domain d
  obtain h | ⟨h, hchanged⟩ := h
  · rw [State.reresolve, State.act_steady (by rw [hdomain]; exact h)]
  · rw [State.reresolve, State.act_raising (by rw [hdomain]; exact h), if_neg (by rw [hdomain]; exact hchanged)]

/-- It withdraws a wanted domain from CONSENT. -/
theorem State.reresolve_withdraws (h : (s.domain d).state = .consent) (hwanted : s.wanted d = true) :
    s.reresolve d = ((s.resolve d).withdraw d).finish d := by
  rw [State.reresolve, State.act_consent (by rw [State.resolve_domain]; exact h), State.resolve_wanted, if_pos hwanted]

/-- It evaluates a PARKED domain that is not wanted. -/
theorem State.reresolve_evaluates (h : (s.domain d).state = .parked) (hwanted : s.wanted d = false) :
    s.reresolve d = ((s.resolve d).evaluateParked d).finish d := by
  rw [State.reresolve, State.act_parked (by rw [State.resolve_domain]; exact h), State.resolve_wanted,
    if_neg (by rw [hwanted]; nofun)]

/-- In the RAIL stage of a wake it compares with the assured code. -/
theorem State.reresolve_rail (h : (s.domain d).state = .waking .rail) :
    s.reresolve d = ((s.resolve d).checkRailStage d).finish d := by
  rw [State.reresolve, State.act_rail (by rw [State.resolve_domain]; exact h)]

/-- A state in which a re-resolution moves nothing. -/
def State.StaysOnResolution (s : State) (d : DomainId) : Prop :=
  ((s.domain d).state = .raising ∧ (s.resolution d).1 = (s.domain d).target) ∨
  ((s.domain d).state = .consent ∧ s.wanted d = false) ∨
  (s.domain d).state = .stepping ∨ (s.domain d).state = .parking ∨ (s.domain d).state = .waking .gate ∨
  (s.domain d).state = .waking .clock ∨ (s.domain d).state = .frozen ∨ (s.domain d).state = .off

theorem State.reresolve_stays (h : s.StaysOnResolution d) : s.reresolve d = (s.resolve d).finish d := by
  have hdomain := s.resolve_domain d
  obtain ⟨h, hsame⟩ | ⟨h, hwanted⟩ | h := h
  · rw [State.reresolve, State.act_raising (by rw [hdomain]; exact h), if_pos (by rw [hdomain]; exact hsame)]
  · rw [State.reresolve, State.act_consent (by rw [hdomain]; exact h), State.resolve_wanted,
      if_neg (by rw [hwanted]; nofun)]
  · rw [State.reresolve, State.act_other (by rw [hdomain]; exact h)]

/-- The domain where a re-resolution moves nothing: its quiet timer and its need follow. -/
theorem State.reresolve_stays_domain (h : s.StaysOnResolution d) : (s.reresolve d).domain d = { s.domain d with
    target := (s.resolution d).1, source := (s.resolution d).2
    quietTimer := (s.resolve d).quietAfter d, need := (s.resolve d).needOf d } := by
  rw [State.reresolve_stays h, State.finish_domain, State.resolve_domain]

/-- What a domain does on a resolution: it plans, is withdrawn, is evaluated, wakes, compares or stays. -/
theorem State.resolution_cases (s : State) (d : DomainId) :
    ((s.domain d).state = .steady ∨ (s.domain d).state = .raising ∧ (s.resolution d).1 ≠ (s.domain d).target) ∨
    ((s.domain d).state = .consent ∧ s.wanted d = true) ∨ ((s.domain d).state = .parked ∧ s.wanted d = false) ∨
    ((s.domain d).state = .parked ∧ s.wanted d = true) ∨ (s.domain d).state = .waking .rail ∨
    s.StaysOnResolution d := by
  unfold State.StaysOnResolution
  match hstate : (s.domain d).state with
  | .raising =>
    by_cases h : (s.resolution d).1 = (s.domain d).target <;> simp [h]
  | .consent => cases s.wanted d <;> simp
  | .parked => cases s.wanted d <;> simp
  | .steady | .stepping | .parking | .waking .rail | .waking .gate | .waking .clock | .frozen | .off => simp

/-- The need works from the new target (R64). -/
theorem State.resolve_needOf (s : State) (d : DomainId) : (s.resolve d).needOf d =
    match (s.domain d).state with
    | .steady => some (s.code d (s.domain d).current)
    | .consent => some (s.code d (s.domain d).current)
    | .raising => some (s.code d (s.resolution d).1)
    | .stepping => some (higherCode (s.code d (s.domain d).current) (s.code d ((s.domain d).step.getD (s.domain d).current)))
    | .waking .rail => some (s.code d (s.resolution d).1)
    | .waking .gate => some (s.code d (s.resolution d).1)
    | .waking .clock =>
      some (higherCode (s.code d ((s.domain d).step.getD (s.resolution d).1)) (s.code d (s.resolution d).1))
    | .frozen => if (s.domain d).gated then none else some (s.code d ((s.domain d).step.getD (s.domain d).current))
    | .parking => none
    | .parked => none
    | .off => none := by
  simp only [State.needOf, State.resolve_domain]
  rfl

/-- Nothing that a plan reads besides the levels changes with a resolution. -/
theorem State.resolve_plansAlike (s : State) (d : DomainId) : s.PlansAlike d (s.resolve d) where
  records := rfl
  boxes := rfl
  point := fun _ => rfl
  assured := rfl
  quietTimer := by rw [State.resolve_domain]
  frozen := by rw [State.resolve_domain]

theorem State.resolve_parkedNotices (s : State) (d : DomainId) : (s.resolve d).parkedNotices d = s.parkedNotices d := by
  funext p
  simp only [State.parkedNotices, State.resolve_domain]
  rfl

/-- The end of an event touches no pending set. -/
@[simp] theorem State.finish_boxes (s : State) (d : DomainId) : (s.finish d).boxes = s.boxes := by
  rw [State.finish, State.reevaluate_eq, State.closeDomain_eq]
  rfl

theorem State.checkRailStage_boxes (s : State) (d : DomainId) : (s.checkRailStage d).boxes = s.boxes := by
  unfold State.checkRailStage
  split <;> rfl

theorem State.checkRailStage_park (s : State) (d : DomainId) : (s.checkRailStage d).park = s.park := by
  unfold State.checkRailStage
  split <;> rfl

theorem State.beginWake_boxes (s : State) (d : DomainId) : (s.beginWake d).boxes = s.boxes :=
  State.checkRailStage_boxes _ d

theorem State.beginWake_park (s : State) (d : DomainId) : (s.beginWake d).park = s.park :=
  State.checkRailStage_park _ d

/-- Where it plans, it is where a plan puts it, seen from before. -/
theorem State.reresolve_plansTo (h : (s.domain d).state = .steady ∨
    (s.domain d).state = .raising ∧ (s.resolution d).1 ≠ (s.domain d).target) :
    s.PlansTo (s.reresolve d) d (s.domain d).current (s.resolution d).1 ∧
    s.Told (s.reresolve d) (s.planNotices d (s.domain d).current (s.resolution d).1) := by
  have halike := s.resolve_plansAlike d
  have hdomain := s.resolve_domain d
  have hplans := State.plan_finish_plansTo (s := s.resolve d) (d := d)
    (by rw [hdomain]; obtain h | ⟨h, -⟩ := h <;> simp [h])
  have htold := (s.resolve d).plan_finish_told d
  rw [hdomain] at hplans htold
  rw [halike.planNotices] at htold
  rw [State.reresolve_plans h]
  exact ⟨halike.plansTo hplans, halike.told htold⟩

/-- The same of a withdrawal, which leaves the channel to the others. -/
theorem State.reresolve_withdrawn (h : (s.domain d).state = .consent) (hwanted : s.wanted d = true) :
    (s.PlansTo (s.reresolve d) d (s.domain d).current (s.resolution d).1 ∧
      s.Told (s.reresolve d) (s.planNotices d (s.domain d).current (s.resolution d).1)) ∧
    (s.reresolve d).park = s.parkWithout (· = d) := by
  have halike := s.resolve_plansAlike d
  have hdomain := s.resolve_domain d
  obtain ⟨hplans, htold, hpark⟩ := State.withdraw_finish (s := s.resolve d) (d := d) (by rw [hdomain]; exact h)
  rw [hdomain] at hplans htold
  rw [halike.planNotices] at htold
  rw [State.reresolve_withdraws h hwanted]
  exact ⟨⟨halike.plansTo hplans, halike.told htold⟩, hpark⟩

/-- Where it neither plans nor evaluates, no pending set changes. -/
theorem State.reresolve_boxes_of_quiet (hplans : ¬((s.domain d).state = .steady ∨
      (s.domain d).state = .raising ∧ (s.resolution d).1 ≠ (s.domain d).target ∨
      (s.domain d).state = .consent ∧ s.wanted d = true))
    (hevaluates : ¬((s.domain d).state = .parked ∧ s.wanted d = false)) : (s.reresolve d).boxes = s.boxes := by
  obtain h | h | h | ⟨h, hwanted⟩ | h | h := s.resolution_cases d
  · exact absurd (or_assoc.1 (.inl h)) hplans
  · exact absurd (.inr (.inr h)) hplans
  · exact absurd h hevaluates
  · rw [State.reresolve_wakes h hwanted, State.finish_boxes, State.beginWake_boxes]; rfl
  · rw [State.reresolve_rail h, State.finish_boxes, State.checkRailStage_boxes]; rfl
  · rw [State.reresolve_stays h, State.finish_boxes]; rfl

/-- Without a withdrawal the park controller stays as it is. -/
theorem State.reresolve_park (hstays : ¬((s.domain d).state = .consent ∧ s.wanted d = true)) :
    (s.reresolve d).park = s.park := by
  obtain h | h | ⟨h, hwanted⟩ | ⟨h, hwanted⟩ | h | h := s.resolution_cases d
  · rw [State.reresolve_plans h, State.finish_park, State.plan_park]; rfl
  · exact absurd h hstays
  · rw [State.reresolve_evaluates h hwanted, State.finish_park]; exact (s.resolve d).evaluate_park d _
  · rw [State.reresolve_wakes h hwanted, State.finish_park, State.beginWake_park]; rfl
  · rw [State.reresolve_rail h, State.finish_park, State.checkRailStage_park]; rfl
  · rw [State.reresolve_stays h, State.finish_park]; rfl

/-! ### Waking at the end of an event (R118, R119) -/

/-- A domain that is not settled ends its event without a quiet timer. -/
theorem State.quietAfter_of_not_settled (h : (s.domain d).settled = false) : s.quietAfter d = none :=
  if_neg (by simp [State.quiet, h])

/-- A domain that a wake's RAIL stage leaves in its RAIL or GATE stage is where the statements have it. -/
theorem State.wakesTo_of_domain {u : State} (hsettled : (s.domain d).settled = false) (hframe : s.DomainFrame d u)
    (hdomain : u.domain d = if s.code d (s.domain d).target ≤ s.assured (s.railOf d) then
        { s.domain d with
          state := .waking .gate, gated := false, gateTimer := some ((s.config d).gateCount.toNat * 10) }
      else { s.domain d with state := .waking .rail, gated := true }) :
    s.WakesTo (u.finish d) d (s.domain d).target := by
  have hquiet : (u.domain d).settled = false := by rw [hdomain]; split <;> exact hsettled
  have hneed : u.needOf d = some (s.code d (s.domain d).target) := by
    simp only [State.needOf, hdomain, hframe.code]
    split_ifs <;> rfl
  rw [State.WakesTo, State.finish_domain, State.quietAfter_of_not_settled hquiet, hneed]
  refine ⟨hquiet, rfl, ?_, rfl, fun hlow => ?_, fun hcover => ?_⟩
  · rw [hdomain]; split <;> rfl
  · rw [hdomain, if_neg (BitVec.not_le.2 hlow)]; exact ⟨rfl, rfl⟩
  · rw [hdomain, if_pos hcover]; exact ⟨rfl, rfl, rfl⟩

theorem State.beginWake_wakesTo (hsettled : (s.domain d).settled = false) :
    s.WakesTo ((s.beginWake d).finish d) d (s.domain d).target :=
  State.wakesTo_of_domain hsettled (State.DomainFrame.beginWake s d) (s.beginWake_domain d)

theorem State.checkRailStage_wakesTo (hsettled : (s.domain d).settled = false)
    (hstate : (s.domain d).state = .waking .rail) (hgated : (s.domain d).gated = true) :
    s.WakesTo ((s.checkRailStage d).finish d) d (s.domain d).target := by
  refine State.wakesTo_of_domain hsettled (State.DomainFrame.checkRailStage s d) ?_
  rw [State.checkRailStage_domain, ← hstate, ← hgated]

/-- What a wake reads besides its target does not change with a resolution. -/
theorem State.WakesTo.of_resolve {t : State} (h : (s.resolve d).WakesTo t d ((s.resolve d).domain d).target) :
    s.WakesTo t d (s.resolution d).1 := by
  simp only [State.WakesTo, State.resolve_domain] at h
  exact h

end Reresolve

/-! ### What the items of a domain controller say of its state -/

section MovesSound
variable {c : Domain}

theorem Domain.MovesSound.settled_iff (h : c.MovesSound) : c.settled = true ↔ c.state = .steady := h.1

theorem Domain.MovesSound.not_settled (h : c.MovesSound) (hstate : c.state ≠ .steady) : c.settled = false :=
  Bool.eq_false_iff.2 fun hs => hstate (h.1.1 hs)

theorem Domain.MovesSound.gated_eq (h : c.MovesSound) {g : Bool} (hgate : c.state.gate = some g) : c.gated = g := by
  obtain ⟨-, -, h, -⟩ := h
  exact h g hgate

end MovesSound

end Sys2Proof.Machine

/-! ### The statements -/

namespace Sys2Proof.Resolution

open Sys2Proof.Machine

/-- Settles O35: what the domain does on the result leaves the result, and the quiet timer follows at the end. -/
theorem resolvingTouchesOneDomain : Obligations.ResolvingTouchesOneDomain := by
  intro s d
  have hframe := State.DomainFrame.reresolve s d
  have hunmoved := (s.resolve d).act_unmoved d (s.domain d).target
  rw [State.resolve_domain] at hunmoved
  have hquiet := ((s.resolve d).act d (s.domain d).target).finish_quietTimer d
  rw [State.QuietTimerFollows, hunmoved.quietTimer] at hquiet
  refine ⟨?_, ?_, ?_, ?_, hframe.resolution d, hquiet, hframe⟩
  · rw [State.reresolve, State.finish_domain]; exact hunmoved.target
  · rw [State.reresolve, State.finish_domain]; exact hunmoved.source
  · rw [State.reresolve, State.finish_domain]; exact hunmoved.current
  · rw [State.reresolve, State.finish_domain]; exact hunmoved.cause

/-- Settles O36, state by state. -/
theorem resolutionActsByState : Obligations.ResolutionActsByState := by
  intro s d hmoves
  have hsound : (s.domain d).MovesSound := (hmoves d).1
  have hresolve := s.resolve_domain d
  have halike := s.resolve_plansAlike d
  have hneed := s.resolve_needOf d
  have stays := fun h : s.StaysOnResolution d => State.reresolve_stays_domain h
  dsimp only
  refine ⟨?plans, ?evaluates, ?quiet, ?withdrawn, ?park, ?raising, ?stepping, ?consent, ?parking, ?wakes, ?parked,
    ?rail, ?gate, ?clock, ?frozen⟩
  case plans =>
    rintro h
    obtain h | ⟨hstate, hwanted⟩ := or_assoc.2 h
    · exact State.reresolve_plansTo h
    · exact (State.reresolve_withdrawn hstate hwanted).1
  case evaluates =>
    rintro ⟨hstate, hwanted⟩ p
    rw [State.reresolve_evaluates hstate hwanted, State.finish_box, State.evaluateParked_box, State.resolve_parkedNotices]
    rfl
  case quiet => exact State.reresolve_boxes_of_quiet
  case withdrawn =>
    rintro ⟨hstate, hwanted⟩
    rw [(State.reresolve_withdrawn hstate hwanted).2]
    exact ⟨rfl, (State.parkWithout_left (out := (· = d)) rfl).1⟩
  case park => exact State.reresolve_park
  case raising =>
    intro hstate hsame
    rw [stays (.inl ⟨hstate, hsame⟩), hneed, hstate]
    exact ⟨rfl, rfl⟩
  case stepping =>
    intro hstate
    rw [stays (.inr (.inr (.inl hstate)))]
    exact ⟨hstate, rfl, rfl, rfl⟩
  case consent =>
    intro hstate hwanted
    rw [stays (.inr (.inl ⟨hstate, hwanted⟩)), hneed, hstate]
    exact ⟨rfl, rfl⟩
  case parking =>
    intro hstate
    rw [stays (.inr (.inr (.inr (.inl hstate)))), hneed, hstate]
    exact ⟨rfl, rfl, rfl⟩
  case wakes =>
    intro hstate hwanted
    have hsettled : ((s.resolve d).domain d).settled = false := by
      rw [State.resolve_domain]; exact hsound.not_settled (by rw [hstate]; nofun)
    rw [State.reresolve_wakes hstate hwanted]
    refine ⟨(State.beginWake_wakesTo hsettled).of_resolve, fun h r hr hd => ⟨r.unsettled, ?_, rfl⟩⟩
    rw [State.finish_record, State.beginWake_record]
    exact (congrArg (Option.map _) hr).trans (congrArg some (if_pos hd))
  case parked =>
    intro hstate hwanted
    rw [State.reresolve_evaluates hstate hwanted, State.finish_domain, State.evaluateParked_domain, State.resolve_domain]
    refine ⟨hstate, ?_, fun h r hr hd => ?_⟩
    · simp only [State.needOf, State.evaluateParked_domain, State.resolve_domain, hstate]
    · rw [State.finish_record, State.evaluateParked_record]
      exact (congrArg (Option.map _) hr).trans (congrArg some (if_pos hd))
  case rail =>
    intro hstate
    have hsettled : ((s.resolve d).domain d).settled = false := by
      rw [State.resolve_domain]; exact hsound.not_settled (by rw [hstate]; nofun)
    have hgated : ((s.resolve d).domain d).gated = true := by
      rw [State.resolve_domain]; exact hsound.gated_eq (by rw [hstate]; rfl)
    rw [State.reresolve_rail hstate]
    exact (State.checkRailStage_wakesTo hsettled (by rw [State.resolve_domain]; exact hstate) hgated).of_resolve
  case gate =>
    intro hstate
    rw [stays (.inr (.inr (.inr (.inr (.inl hstate))))), hneed, hstate]
    exact ⟨rfl, rfl, rfl⟩
  case clock =>
    intro hstate
    rw [stays (.inr (.inr (.inr (.inr (.inr (.inl hstate)))))), hneed, hstate]
    exact ⟨rfl, rfl, fun l hl => by rw [hl]; rfl⟩
  case frozen =>
    intro hstate
    rw [stays (.inr (.inr (.inr (.inr (.inr (.inr hstate))))))]
    exact ⟨rfl, rfl, rfl, rfl⟩

end Sys2Proof.Resolution
end

section
/-! PROOFS. The relations of a sound state taken apart by domain, rail and channel, with sets of those for which they
hold in the middle of an event; what does not read a change, and what a re-evaluation and the end of an event restore. -/

-- The proofs are elaborated one after another: side by side they would exceed the memory that the check allows.
set_option Elab.async false

namespace Sys2Proof.Machine

/-! ### The relations of one domain and of one rail -/

/-- What is written in the setup of domain d fits its rail (R30, R44, R46 and section 3.6). -/
structure State.SetupFits (s : State) (d : DomainId) : Prop where
  zero : (s.point d 0).valid = true
  rest : (s.point d (s.config d).rest).valid = true
  safe : (s.point d (s.config d).safe).valid = true
  limits : (s.config d).floorLimit ≤ (s.config d).ceilingLimit
  inside : ∀ l, (s.point d l).valid = true → (s.rail (s.railOf d)).inside (s.code d l)
  fallback : s.code d (s.config d).safe ≤ (s.rail (s.railOf d)).fallback

/-- Controller `c` fits domain d: its levels are valid, its items agree with its state, and its state with the state of
its rail, which covers it outside fault handling (R44, R62, R65, R75, R126 to R131). -/
structure State.Fits (s : State) (d : DomainId) (c : Domain) : Prop where
  current : (s.point d c.current).valid = true
  target : (s.point d c.target).valid = true
  step : ∀ l ∈ c.step, (s.point d l).valid = true
  moves : c.MovesSound
  held : ((s.rail (s.railOf d)).state = .fallback ∨ (s.rail (s.railOf d)).state = .held) ↔
    (c.state = .frozen ∧ c.cause = .rail)
  shut : (s.rail (s.railOf d)).state = .shutdown ↔ c.state = .off
  inPlace : (s.rail (s.railOf d)).state = .held ∨
    ((s.rail (s.railOf d)).state = .fallback ∧ (s.rail (s.railOf d)).command ≠ .none) → c.inPlace = true
  frozen : c.state = .frozen → c.gated = false → s.code d (c.step.getD c.current) ≤ (s.rail (s.railOf d)).fallback
  running : (s.rail (s.railOf d)).faulted = false → c.running = true →
    s.code d c.current ≤ s.assured (s.railOf d) ∧ ∀ l ∈ c.step, s.code d l ≤ s.assured (s.railOf d)
  clock : (s.rail (s.railOf d)).faulted = false → c.state = .waking .clock →
    ∀ l ∈ c.step, s.code d l ≤ s.assured (s.railOf d)
  raising : (s.rail (s.railOf d)).faulted = false → c.state = .raising → s.code d c.current < s.code d c.target

/-- A PARKED domain has no FLOOR record and no force level (R116). -/
def State.ParkFits (s : State) (d : DomainId) : Prop :=
  (s.domain d).state = .parked → s.hasFloor d = false ∧ (s.domain d).force = none

/-- The statuses of the records on domain d fit its state (R37 to R40). -/
def State.StatusesFit (s : State) (d : DomainId) : Prop :=
  ∀ h, ∀ r ∈ s.record h, r.domain = d →
    (r.status = .held ↔ ((s.domain d).state = .frozen ∨ (s.domain d).state = .off)) ∧
    (r.status = .inForce ∨ r.status = .clamped → (s.domain d).state = .steady ∨ (s.domain d).state = .parked)

/-- What the end of an event of domain d brings about: its need follows its state, and a quiet timer runs only under its
conditions (R64, R78). -/
def State.Closed (s : State) (d : DomainId) : Prop :=
  (s.domain d).need = s.needOf d ∧ ((s.domain d).quietTimer ≠ none →
    (s.domain d).settled = true ∧ (s.config d).park = true ∧ (s.domain d).force = none)

/-- The settings, the cause and the command of a rail fit each other and its state (R84, R91, R129 to R131, Table 5-1). -/
structure Rail.Fits (r : Rail) : Prop where
  window : r.min ≤ r.max
  fallback : r.inside r.fallback
  retention : r.inside r.retention
  stepTime : r.stepTime ≠ 0
  cause : r.cause ≠ .none ↔ r.faulted = true
  held : r.state = .held → r.confirmed = r.fallback ∧ r.command = .none
  shut : r.state = .shutdown → r.command = .none
  falling : r.state = .fallback → ∀ c ∈ r.command.code?, c = r.fallback
  command : ∀ code ∈ r.command.code?, r.inside code
  outstanding : r.faulted = false → ∀ code tries phase, r.command = .outstanding code tries phase → code ≠ r.confirmed

/-- What a re-evaluation of rail v brings about: its required code is that of Table 5-2, and outside fault handling its
command obeys the command rule and its state is that of Table 5-3 (R85 to R88). -/
structure State.Followed (s : State) (v : RailId) : Prop where
  required : (s.rail v).required = s.requiredCode v
  idle : (s.rail v).faulted = false → (s.rail v).command = .none → (s.rail v).confirmed = (s.rail v).required
  queued : (s.rail v).faulted = false → ∀ code, (s.rail v).command = .queued code →
    code = (s.rail v).required ∧ code ≠ (s.rail v).confirmed
  state : (s.rail v).faulted = false → (s.rail v).state = (s.rail v).ordinaryState (s.allParked v)

/-- The transfer and the reply timer go together, and a wanted transfer is the AWAITING_REPLY command of its rail
(R89 to R94). -/
structure State.TransferSound (s : State) : Prop where
  timer : s.link.transfer = none ↔ s.link.replyTimer = none
  hold : s.link.resetHold ≠ none → s.link.transfer = none
  wanted : ∀ t ∈ s.link.transfer, t.bit = s.link.bit ∧
    (t.disregarded = false → (s.rail t.rail).command = .outstanding t.code t.tries .awaitingReply)
  awaiting : ∀ v : RailId, ∀ code tries, (s.rail v).command = .outstanding code tries .awaitingReply →
    ∃ t ∈ s.link.transfer, t.rail = v ∧ t.disregarded = false

/-- A rail is chosen exactly while the link is free with a rail waiting (R90). -/
structure State.ElectedSound (s : State) : Prop where
  chosen : ∀ v ∈ s.link.elected, s.waiting v = true ∧ s.linkBusy = false
  nobody : s.linkBusy = false → s.link.elected = none → ∀ v : RailId, s.waiting v = false

/-- The relations of a sound state in the middle of an event but for the choice of a rail, and where `strict` those of
the statuses: they hold of the domains of `fit`, their need and quiet timer of those of `closed`, and the required code,
the command and the state of the rails of `followed`. -/
structure State.Consistent (strict : Prop) (fit closed : DomainId → Prop) (followed : RailId → Prop) (s : State) :
    Prop where
  setups : ∀ e, s.SetupFits e
  fits : ∀ e, fit e → s.Fits e (s.domain e)
  parked : ∀ e, fit e → s.ParkFits e
  statuses : strict → ∀ e, fit e → s.StatusesFit e
  rails : ∀ v, (s.rail v).Fits
  consent : s.ConsentSound
  transfer : s.TransferSound
  closed : ∀ e, closed e → s.Closed e
  followed : ∀ v, followed v → s.Followed v

/-- These relations, with the right rail chosen. -/
structure State.Coherent (strict : Prop) (fit closed : DomainId → Prop) (followed : RailId → Prop) (s : State) : Prop
    extends State.Consistent strict fit closed followed s where
  elected : s.ElectedSound

/-- Between two events the relations hold of every domain and every rail. -/
abbrev State.Whole (strict : Prop) (s : State) : Prop :=
  s.Coherent strict (fun _ => True) (fun _ => True) (fun _ => True)

variable {strict : Prop} {s : State}

/-! ### A sound state is one in which they hold of all -/

theorem Rail.not_faulted {r : Rail} : r.faulted = false ↔ r.state ≠ .fallback ∧ r.state ≠ .held ∧ r.state ≠ .shutdown := by
  cases h : r.state <;> simp [Rail.faulted, h]

theorem State.Sound.whole (h : s.Sound) (hstatuses : strict → s.StatusesSound) : s.Whole strict where
  setups e := by
    obtain ⟨hzero, hrest, hsafe, -, -, -, hlimits⟩ := h.tables e
    exact ⟨hzero, hrest, hsafe, hlimits, h.windows.2.1 e, h.windows.2.2 e⟩
  fits e _ := by
    obtain ⟨-, -, -, hcurrent, htarget, hstep, -⟩ := h.tables e
    obtain ⟨hheld, hshut, hplace, hfrozen⟩ := h.faults.1 e
    exact ⟨hcurrent, htarget, hstep, (h.moves e).1, hheld, hshut, hplace, hfrozen, fun hr => (h.assured e hr).1,
      fun hr => (h.assured e hr).2.1, fun hr => (h.assured e hr).2.2⟩
  parked e _ := h.parked e
  statuses hq e _ := by
    rintro k r hr rfl
    exact hstatuses hq k r hr
  rails v := by
    obtain ⟨hwindow, hfallback, hretention, htime⟩ := h.windows.1 v
    obtain ⟨hcause, hheld, hshut, hfalling⟩ := h.faults.2 v
    exact ⟨hwindow, hfallback, hretention, htime, hcause, hheld, hshut, hfalling, h.commands v,
      fun hr => (h.rails v hr).2.2.1⟩
  consent := h.consent
  transfer := ⟨h.link.1, h.link.2.1, h.link.2.2.1, h.link.2.2.2.1⟩
  elected := ⟨h.link.2.2.2.2.1, h.link.2.2.2.2.2⟩
  closed e _ := ⟨h.needs.1 e, (h.moves e).2⟩
  followed v _ := ⟨h.needs.2 v, fun hr => (h.rails v hr).1, fun hr => (h.rails v hr).2.1, fun hr => (h.rails v hr).2.2.2⟩

/-- A running domain is covered by the confirmed code of its rail, outside FALLBACK and SHUTDOWN (R65, R130). -/
theorem State.Fits.covered {d : DomainId} {c : Domain} (h : s.Fits d c) (hr : (s.rail (s.railOf d)).Fits)
    (hfallback : (s.rail (s.railOf d)).state ≠ .fallback) (hshut : (s.rail (s.railOf d)).state ≠ .shutdown) :
    (c.running = true → s.code d c.current ≤ (s.rail (s.railOf d)).confirmed ∧
      ∀ l ∈ c.step, s.code d l ≤ (s.rail (s.railOf d)).confirmed) ∧
    (c.state = .waking .clock → ∀ l ∈ c.step, s.code d l ≤ (s.rail (s.railOf d)).confirmed) := by
  have hassured : s.assured (s.railOf d) ≤ (s.rail (s.railOf d)).confirmed := Rail.assured_le _
  by_cases hheld : (s.rail (s.railOf d)).state = .held
  case neg =>
    have hfree := Rail.not_faulted.2 ⟨hfallback, hheld, hshut⟩
    refine ⟨fun hrun => ?_, fun hclock l hl => BitVec.le_trans (h.clock hfree hclock l hl) hassured⟩
    obtain ⟨hcur, hstep⟩ := h.running hfree hrun
    exact ⟨BitVec.le_trans hcur hassured, fun l hl => BitVec.le_trans (hstep l hl) hassured⟩
  case pos =>
    obtain ⟨hstate, -⟩ := h.held.1 (.inr hheld)
    refine ⟨fun hrun => ?_, fun hclock => by rw [hstate] at hclock; cases hclock⟩
    have hgated : c.gated = false := by simpa [Domain.running, hstate] using hrun
    have hstep : c.step = none := by simpa [Domain.inPlace, hstate, hgated] using h.inPlace (.inl hheld)
    have hcode := h.frozen hstate hgated
    rw [hstep] at hcode ⊢
    exact ⟨(hr.held hheld).1 ▸ hcode, fun l hl => by cases hl⟩

theorem State.Coherent.sound (h : s.Whole strict) : s.Sound ∧ (strict → s.StatusesSound) := by
  have hf (e : DomainId) : s.Fits e (s.domain e) := h.fits e trivial
  refine ⟨{
    tables := fun e => ⟨(h.setups e).zero, (h.setups e).rest, (h.setups e).safe, (hf e).current, (hf e).target,
      (hf e).step, (h.setups e).limits⟩
    windows := ⟨fun v => ⟨(h.rails v).window, (h.rails v).fallback, (h.rails v).retention, (h.rails v).stepTime⟩,
      fun e => (h.setups e).inside, fun e => (h.setups e).fallback⟩
    moves := fun e => ⟨(hf e).moves, (h.closed e trivial).2⟩
    parked := fun e => h.parked e trivial
    faults := ⟨fun e => ⟨(hf e).held, (hf e).shut, (hf e).inPlace, (hf e).frozen⟩,
      fun v => ⟨(h.rails v).cause, (h.rails v).held, (h.rails v).shut, (h.rails v).falling⟩⟩
    consent := h.consent
    link := ⟨h.transfer.timer, h.transfer.hold, h.transfer.wanted, h.transfer.awaiting, h.elected.chosen,
      h.elected.nobody⟩
    needs := ⟨fun e => (h.closed e trivial).1, fun v => (h.followed v trivial).required⟩
    rails := fun v hr => ⟨(h.followed v trivial).idle hr, (h.followed v trivial).queued hr, (h.rails v).outstanding hr,
      (h.followed v trivial).state hr⟩
    commands := fun v => (h.rails v).command
    assured := fun e hr => ⟨(hf e).running hr, (hf e).clock hr, (hf e).raising hr⟩
    covered := fun e hfallback hshut => (hf e).covered (h.rails _) hfallback hshut }, fun hq k r hr => ?_⟩
  exact h.statuses hq r.domain trivial k r hr rfl

section Fewer
variable {fit closed fit' closed' : DomainId → Prop} {followed followed' : RailId → Prop}

/-- Fewer domains and rails are asked for. -/
theorem State.Consistent.mono (h : s.Consistent strict fit closed followed) (hfit : ∀ e, fit' e → fit e)
    (hclosed : ∀ e, closed' e → closed e) (hfollowed : ∀ v, followed' v → followed v) :
    s.Consistent strict fit' closed' followed' :=
  { h with
    fits := fun e he => h.fits e (hfit e he)
    parked := fun e he => h.parked e (hfit e he)
    statuses := fun hq e he => h.statuses hq e (hfit e he)
    closed := fun e he => h.closed e (hclosed e he)
    followed := fun v hv => h.followed v (hfollowed v hv) }

theorem State.Coherent.mono (h : s.Coherent strict fit closed followed) (hfit : ∀ e, fit' e → fit e)
    (hclosed : ∀ e, closed' e → closed e) (hfollowed : ∀ v, followed' v → followed v) :
    s.Coherent strict fit' closed' followed' :=
  ⟨h.toConsistent.mono hfit hclosed hfollowed, h.elected⟩

end Fewer

end Sys2Proof.Machine
end

section
/-! PROOFS. What the relations of one domain read of the rest of the part, and what a re-evaluation of a rail and the end
of an event of a domain controller restore. -/

-- The proofs are elaborated one after another: side by side they would exceed the memory that the check allows.
set_option Elab.async false

namespace Sys2Proof.Machine

variable {strict : Prop} {s t : State} {d : DomainId}

/-! ### Rails that differ by a re-evaluation -/

/-- `q` is `r` but for what a re-evaluation writes: outside fault handling the queued command and the state of Table 5-3,
and the required code (R86). -/
structure Rail.Similar (r q : Rail) : Prop where
  falling : q.state = .fallback ↔ r.state = .fallback
  held : q.state = .held ↔ r.state = .held
  shut : q.state = .shutdown ↔ r.state = .shutdown
  min : q.min = r.min
  max : q.max = r.max
  fallback : q.fallback = r.fallback
  retention : q.retention = r.retention
  confirmed : q.confirmed = r.confirmed
  command : r.faulted = true → q.command = r.command
  outstanding : ∀ code tries phase, q.command = .outstanding code tries phase ↔
    r.command = .outstanding code tries phase

theorem Rail.Similar.refl (r : Rail) : r.Similar r :=
  ⟨.rfl, .rfl, .rfl, rfl, rfl, rfl, rfl, rfl, fun _ => rfl, fun _ _ _ => .rfl⟩

theorem Rail.Similar.faulted {r q : Rail} (h : r.Similar q) : q.faulted = r.faulted := by
  rw [Bool.eq_iff_iff]
  simp [Rail.faulted, h.falling, h.held, h.shut]

theorem Rail.assured_of_outstanding {r : Rail} {code : Byte} {tries : Try} {phase : CommandPhase}
    (h : r.command = .outstanding code tries phase) : r.assured = lowerCode r.confirmed code := by
  simp [Rail.assured, h]

theorem Rail.assured_of_not_outstanding {r : Rail} (h : ∀ code tries phase, r.command ≠ .outstanding code tries phase) :
    r.assured = r.confirmed := by
  unfold Rail.assured
  split
  · next hc => exact absurd hc (h _ _ _)
  · rfl

theorem Rail.Similar.assured {r q : Rail} (h : r.Similar q) : q.assured = r.assured := by
  by_cases hout : ∃ code tries phase, r.command = .outstanding code tries phase
  · obtain ⟨code, tries, phase, hr⟩ := hout
    rw [Rail.assured_of_outstanding hr, Rail.assured_of_outstanding ((h.outstanding _ _ _).2 hr), h.confirmed]
  · simp only [not_exists] at hout
    rw [Rail.assured_of_not_outstanding hout, Rail.assured_of_not_outstanding fun code tries phase hq =>
      hout code tries phase ((h.outstanding _ _ _).1 hq), h.confirmed]

theorem Rail.reevaluated_of_faulted {r : Rail} (h : r.faulted = true) (required : Byte) (parked : Bool) :
    r.reevaluated required parked = { r with required := required } := if_pos h

theorem Rail.reevaluated_of_free {r : Rail} (h : r.faulted = false) (required : Byte) (parked : Bool) :
    r.reevaluated required parked = { Rail.commandRule { r with required := required } with
      state := (Rail.commandRule { r with required := required }).ordinaryState parked } :=
  if_neg (by rw [Bool.not_eq_true]; exact h)

theorem Rail.similar_reevaluated (r : Rail) (required : Byte) (parked : Bool) :
    r.Similar (r.reevaluated required parked) := by
  cases hf : r.faulted with
  | true =>
    rw [Rail.reevaluated_of_faulted hf]
    exact ⟨.rfl, .rfl, .rfl, rfl, rfl, rfl, rfl, rfl, fun _ => rfl, fun _ _ _ => .rfl⟩
  | false =>
    have hfree : (r.reevaluated required parked).faulted = false := by
      rw [Rail.reevaluated_of_free hf]
      exact Rail.withOrdinaryState_not_faulted _ _ _
    obtain ⟨h1, h2, h3⟩ := Rail.not_faulted.1 hf
    obtain ⟨k1, k2, k3⟩ := Rail.not_faulted.1 hfree
    rw [Rail.reevaluated_of_free hf] at k1 k2 k3 ⊢
    rcases Rail.commandRule_cases { r with required := required } with ⟨code, tries, phase, hout, e⟩ | ⟨hn, -, e⟩ |
      ⟨hn, -, e⟩ <;> rw [e] at k1 k2 k3 ⊢ <;>
      refine ⟨iff_of_false k1 h1, iff_of_false k2 h2, iff_of_false k3 h3, rfl, rfl, rfl, rfl, rfl,
        fun hr => (nomatch hf.symm.trans hr), fun code tries phase => ?_⟩
    · exact .rfl
    · exact iff_of_false (fun h => nomatch h) (hn code tries phase)
    · exact iff_of_false (fun h => nomatch h) (hn code tries phase)

/-- The required code lies in the rail's window (R85, R91). -/
theorem Rail.Fits.inside_required {v : RailId} (h : (s.rail v).Fits) : (s.rail v).inside (s.requiredCode v) := by
  by_cases hparked : s.allParked v = true
  · rw [State.requiredCode_of_allParked hparked]
    exact h.retention
  · by_cases hneeds : s.needs v = []
    · rw [State.requiredCode_of_no_needs hparked hneeds]
      exact ⟨BitVec.le_refl _, h.window⟩
    · rw [State.requiredCode_of_needs hparked hneeds]
      refine ⟨le_lowerCode.2 ⟨h.window, (le_higherCode.1 (BitVec.le_refl _)).1⟩, lowerCode_le_left _ _⟩

theorem Rail.Fits.reevaluated {r : Rail} (h : r.Fits) {required : Byte} (hin : r.inside required) (parked : Bool) :
    (r.reevaluated required parked).Fits := by
  have hsim := r.similar_reevaluated required parked
  have hcause : (r.reevaluated required parked).cause = r.cause ∧
      (r.reevaluated required parked).stepTime = r.stepTime := by
    cases hf : r.faulted with
    | true => rw [Rail.reevaluated_of_faulted hf]; exact ⟨rfl, rfl⟩
    | false =>
      rw [Rail.reevaluated_of_free hf]
      rcases Rail.commandRule_cases { r with required := required } with ⟨_, _, _, -, e⟩ | ⟨-, -, e⟩ | ⟨-, -, e⟩ <;>
        rw [e] <;> exact ⟨rfl, rfl⟩
  have hinside (code : Byte) : (r.reevaluated required parked).inside code ↔ r.inside code := by
    rw [Rail.inside, Rail.inside, hsim.min, hsim.max]
  have hcommand (x : r.faulted = true) := hsim.command x
  have hfaulted (hs : r.state = .fallback ∨ r.state = .held ∨ r.state = .shutdown) : r.faulted = true := by
    rcases hs with e | e | e <;> simp [Rail.faulted, e]
  constructor
  case window => rw [hsim.min, hsim.max]; exact h.window
  case fallback => rw [hinside, hsim.fallback]; exact h.fallback
  case retention => rw [hinside, hsim.retention]; exact h.retention
  case stepTime => rw [hcause.2]; exact h.stepTime
  case cause => rw [hcause.1, hsim.faulted]; exact h.cause
  case held =>
    intro hs
    have hr := hsim.held.1 hs
    rw [hsim.confirmed, hsim.fallback, hcommand (hfaulted (.inr (.inl hr)))]
    exact h.held hr
  case shut =>
    intro hs
    have hr := hsim.shut.1 hs
    rw [hcommand (hfaulted (.inr (.inr hr)))]
    exact h.shut hr
  case falling =>
    intro hs
    have hr := hsim.falling.1 hs
    rw [hsim.fallback, hcommand (hfaulted (.inl hr))]
    exact h.falling hr
  case command =>
    intro code hcode
    rw [hinside]
    cases hf : r.faulted with
    | true => exact h.command code (by rwa [hcommand hf] at hcode)
    | false =>
      rw [Rail.reevaluated_of_free hf] at hcode
      rcases Rail.commandRule_cases { r with required := required } with ⟨_, _, _, -, e⟩ | ⟨-, -, e⟩ | ⟨-, -, e⟩ <;>
        rw [e] at hcode
      · exact h.command code hcode
      · cases hcode
      · obtain rfl := Option.some.inj hcode
        exact hin
  case outstanding =>
    intro hf code tries phase hout
    rw [hsim.confirmed]
    exact h.outstanding (hsim.faulted ▸ hf) code tries phase ((hsim.outstanding _ _ _).1 hout)

/-! ### What the relations of a domain read -/

theorem State.SetupFits.congr (h : s.SetupFits d) (hsetups : t.setups = s.setups)
    (hmin : (t.rail (s.railOf d)).min = (s.rail (s.railOf d)).min)
    (hmax : (t.rail (s.railOf d)).max = (s.rail (s.railOf d)).max)
    (hfallback : (t.rail (s.railOf d)).fallback = (s.rail (s.railOf d)).fallback) : t.SetupFits d := by
  have hp := State.point_congr hsetups d
  have hc := State.code_congr hsetups d
  constructor
  case inside =>
    intro l hl
    rw [State.railOf_congr hsetups, Rail.inside, hmin, hmax, hc]
    exact h.inside l (hp l ▸ hl)
  case fallback =>
    rw [State.railOf_congr hsetups, State.config_congr hsetups, hc, hfallback]
    exact h.fallback
  case zero => rw [hp]; exact h.zero
  case rest => rw [State.config_congr hsetups, hp]; exact h.rest
  case safe => rw [State.config_congr hsetups, hp]; exact h.safe
  case limits => rw [State.config_congr hsetups]; exact h.limits

/-- A domain that fits its rail fits one in the same fault state, with the same fallback code, no command that waits for
it, and an assured code that is not lower. -/
theorem State.Fits.congr {c : Domain} (h : s.Fits d c) (hsetups : t.setups = s.setups)
    (hfalling : (t.rail (s.railOf d)).state = .fallback ↔ (s.rail (s.railOf d)).state = .fallback)
    (hheld : (t.rail (s.railOf d)).state = .held ↔ (s.rail (s.railOf d)).state = .held)
    (hshut : (t.rail (s.railOf d)).state = .shutdown ↔ (s.rail (s.railOf d)).state = .shutdown)
    (hcommand : (s.rail (s.railOf d)).state = .fallback → (t.rail (s.railOf d)).command ≠ .none →
      (s.rail (s.railOf d)).command ≠ .none)
    (hfallback : (t.rail (s.railOf d)).fallback = (s.rail (s.railOf d)).fallback)
    (hassured : (s.rail (s.railOf d)).faulted = false → s.assured (s.railOf d) ≤ t.assured (s.railOf d)) :
    t.Fits d c := by
  have hp := State.point_congr hsetups d
  have hc := State.code_congr hsetups d
  have hv := State.railOf_congr hsetups d
  have hfree (hf : (t.rail (t.railOf d)).faulted = false) : (s.rail (s.railOf d)).faulted = false := by
    rw [hv, Rail.not_faulted] at hf
    exact Rail.not_faulted.2 ⟨hf.1 ∘ hfalling.2, hf.2.1 ∘ hheld.2, hf.2.2 ∘ hshut.2⟩
  constructor
  case current => rw [hp]; exact h.current
  case target => rw [hp]; exact h.target
  case step => intro l hl; rw [hp]; exact h.step l hl
  case moves => exact h.moves
  case held => rw [hv, hfalling, hheld]; exact h.held
  case shut => rw [hv, hshut]; exact h.shut
  case inPlace =>
    rw [hv, hfalling, hheld]
    exact fun hr => h.inPlace (hr.imp_right fun ⟨hstate, hne⟩ => ⟨hstate, hcommand hstate hne⟩)
  case frozen => rw [hv, hc, hfallback]; exact h.frozen
  case running =>
    intro hf hrun
    have hle := hassured (hfree hf)
    obtain ⟨hcur, hstep⟩ := h.running (hfree hf) hrun
    rw [hv]
    exact ⟨hc _ ▸ BitVec.le_trans hcur hle, fun l hl => hc l ▸ BitVec.le_trans (hstep l hl) hle⟩
  case clock =>
    intro hf hclock l hl
    rw [hv, hc]
    exact BitVec.le_trans (h.clock (hfree hf) hclock l hl) (hassured (hfree hf))
  case raising =>
    intro hf
    rw [hc, hc]
    exact h.raising (hfree hf)

theorem State.Fits.similar {c : Domain} (h : s.Fits d c) (hsetups : t.setups = s.setups)
    (hrail : (s.rail (s.railOf d)).Similar (t.rail (s.railOf d))) : t.Fits d c :=
  h.congr hsetups hrail.falling hrail.held hrail.shut
    (fun hstate hne => by rwa [hrail.command (by simp [Rail.faulted, hstate])] at hne) hrail.fallback
    fun _ => BitVec.le_of_eq hrail.assured.symm

theorem State.ParkFits.congr {e : DomainId} (h : s.ParkFits e)
    (hdomain : (t.domain e).state = .parked → (s.domain e).state = .parked ∧ (t.domain e).force = (s.domain e).force)
    (hfloor : t.hasFloor e = true → s.hasFloor e = true) : t.ParkFits e := by
  intro hparked
  obtain ⟨hstate, hforce⟩ := hdomain hparked
  obtain ⟨hfloor', hforce'⟩ := h hstate
  refine ⟨Bool.eq_false_iff.2 fun hf => ?_, hforce.trans hforce'⟩
  rw [hfloor hf] at hfloor'
  cases hfloor'

theorem State.StatusesFit.congr {e : DomainId} (h : s.StatusesFit e) (hstate : (t.domain e).state = (s.domain e).state)
    (hrec : ∀ k q, t.record k = some q → q.domain = e →
      ∃ r, s.record k = some r ∧ r.domain = e ∧ q.status = r.status) : t.StatusesFit e := by
  intro k q hq he
  obtain ⟨r, hr, hd, hs⟩ := hrec k q hq he
  rw [hs, hstate]
  exact h k r hr hd

theorem State.Closed.congr {e : DomainId} (h : s.Closed e) (hsetups : t.setups = s.setups)
    (hdomain : t.domain e = s.domain e) : t.Closed e := by
  have hneed : t.needOf e = s.needOf e := by
    simp only [State.needOf, hdomain, State.code_congr hsetups]
  rw [State.Closed, hneed, hdomain, State.config_congr hsetups]
  exact h

theorem State.Followed.congr {v : RailId} (h : s.Followed v) (hsetups : t.setups = s.setups)
    (hrail : t.rail v = s.rail v) (hdomains : ∀ e, s.railOf e = v →
      (t.domain e).need = (s.domain e).need ∧ ((t.domain e).state = .parked ↔ (s.domain e).state = .parked)) :
    t.Followed v := by
  have hrequired : t.requiredCode v = s.requiredCode v :=
    State.requiredCode_congr hsetups hdomains (by rw [hrail]; exact ⟨rfl, rfl, rfl⟩)
  have hparked : t.allParked v = s.allParked v := by
    rw [Bool.eq_iff_iff, State.allParked_iff, State.allParked_iff]
    refine forall_congr' fun e => ?_
    rw [State.railOf_congr hsetups]
    exact imp_congr_right fun he => (hdomains e he).2
  constructor <;> rw [hrail]
  · rw [hrequired]; exact h.required
  · exact h.idle
  · exact h.queued
  · rw [hparked]; exact h.state

theorem State.ConsentSound.congr (h : s.ConsentSound) (hqueue : t.park.queue = s.park.queue)
    (hrequest : t.park.request.map Prod.fst = s.park.request.map Prod.fst)
    (hstates : ∀ e, (t.domain e).state = .consent ↔ (s.domain e).state = .consent) : t.ConsentSound := by
  obtain ⟨hnodup, hout, hmem⟩ := h
  refine ⟨hqueue ▸ hnodup, fun x hx => ?_, fun e => ?_⟩
  · obtain ⟨y, hy, hyx⟩ : ∃ y ∈ s.park.request, y.1 = x.1 := by
      have hfst : s.park.request.map Prod.fst = some x.1 := by rw [← hrequest, hx]; rfl
      exact Option.map_eq_some_iff.1 hfst
    rw [hqueue, ← hyx]
    exact hout y hy
  · rw [hstates, hqueue, hrequest]
    exact hmem e

theorem State.TransferSound.congr (h : s.TransferSound) (htransfer : t.link.transfer = s.link.transfer)
    (htimer : t.link.replyTimer = none ↔ s.link.replyTimer = none)
    (hhold : t.link.resetHold = none ↔ s.link.resetHold = none) (hbit : t.link.bit = s.link.bit)
    (hrails : ∀ v code tries, (t.rail v).command = .outstanding code tries .awaitingReply ↔
      (s.rail v).command = .outstanding code tries .awaitingReply) : t.TransferSound where
  timer := by rw [htransfer, htimer]; exact h.timer
  hold := by rw [htransfer]; exact fun hn => h.hold fun he => hn (hhold.2 he)
  wanted x hx := by
    obtain ⟨hb, hw⟩ := h.wanted x (htransfer ▸ hx)
    exact ⟨hbit ▸ hb, fun hd => (hrails _ _ _).2 (hw hd)⟩
  awaiting v code tries hv := by
    obtain ⟨x, hx, hxv⟩ := h.awaiting v code tries ((hrails _ _ _).1 hv)
    exact ⟨x, htransfer ▸ hx, hxv⟩

theorem State.ElectedSound.congr (h : s.ElectedSound) (helected : t.link.elected = s.link.elected)
    (hbusy : t.linkBusy = s.linkBusy) (hwaiting : ∀ v, t.waiting v = s.waiting v) : t.ElectedSound where
  chosen v hv := by rw [hwaiting, hbusy]; exact h.chosen v (helected ▸ hv)
  nobody hb hn v := by rw [hwaiting]; exact h.nobody (hbusy ▸ hb) (helected ▸ hn) v

theorem State.waiting_congr {v : RailId} (h : (t.rail v).command = (s.rail v).command) : t.waiting v = s.waiting v := by
  rw [State.waiting, h]
  rfl

theorem State.chooseRail_electedSound (s : State) : s.chooseRail.ElectedSound := by
  obtain ⟨hchosen, hnobody⟩ := s.chooseRail_elected
  exact ⟨fun v hv => by rw [State.chooseRail_waiting, State.chooseRail_linkBusy]; exact hchosen v hv,
    fun hb hn v => by rw [State.chooseRail_waiting]; exact hnobody (State.chooseRail_linkBusy s ▸ hb) hn v⟩

/-! ### Controllers and rails that only wait -/

/-- `e` is `c` but for the counts of its running timers and for the news of an assured code. -/
def Domain.Paced (c e : Domain) : Prop :=
  ∃ lock gate quiet news,
    e = { c with lockTimer := lock, gateTimer := gate, quietTimer := quiet, assuredNews := news } ∧
    (lock = none ↔ c.lockTimer = none) ∧ (gate = none ↔ c.gateTimer = none) ∧ (quiet = none ↔ c.quietTimer = none)

theorem Domain.Paced.refl (c : Domain) : c.Paced c := ⟨_, _, _, _, rfl, .rfl, .rfl, .rfl⟩

theorem Domain.Paced.state {c e : Domain} (h : c.Paced e) : e.state = c.state ∧ e.need = c.need := by
  obtain ⟨_, _, _, _, rfl, -⟩ := h
  exact ⟨rfl, rfl⟩

theorem State.Fits.paced {c e : Domain} (h : s.Fits d c) (he : c.Paced e) : s.Fits d e := by
  obtain ⟨lock, gate, quiet, news, rfl, hlock, hgate, -⟩ := he
  obtain ⟨hsettled, hsteady, hgated, hmoving, hstep, htimer, hdue, hgateTimer, hcause, hoff, hclock⟩ := h.moves
  have hmoves : Domain.MovesSound { c with
      lockTimer := lock, gateTimer := gate, quietTimer := quiet, assuredNews := news } :=
    ⟨hsettled, hsteady, hgated, hmoving, hstep, fun hne => htimer (mt hlock.2 hne),
      fun hs => (hdue hs).imp_left (mt hlock.1), (not_congr hgate).trans hgateTimer, hcause, hoff, hclock⟩
  exact ⟨h.current, h.target, h.step, hmoves, h.held, h.shut, h.inPlace, h.frozen, h.running, h.clock, h.raising⟩

theorem State.Closed.paced {e : DomainId} (h : s.Closed e) (hsetups : t.setups = s.setups)
    (hdomain : (s.domain e).Paced (t.domain e)) : t.Closed e := by
  obtain ⟨lock, gate, quiet, news, hd, -, -, hquiet⟩ := hdomain
  have hneed : t.needOf e = s.needOf e := by
    simp only [State.needOf, hd, State.code_congr hsetups]
  rw [State.Closed, hneed, hd, State.config_congr hsetups]
  exact ⟨h.1, fun hne => h.2 (mt hquiet.2 hne)⟩

/-- `q` is `r` with its outstanding command, if any, in another phase. -/
def Rail.Onward (r q : Rail) : Prop :=
  ∃ command, q = { r with command := command } ∧ (command = r.command ∨ ∃ code tries phase tries' phase',
    r.command = .outstanding code tries phase ∧ command = .outstanding code tries' phase')

theorem Rail.Onward.refl (r : Rail) : r.Onward r := ⟨_, rfl, .inl rfl⟩

/-- Whether and which code is queued or outstanding stays, and with it the assured code. -/
theorem Rail.Onward.command {r q : Rail} (h : r.Onward q) : (q.command = .none ↔ r.command = .none) ∧
    (∀ code, q.command = .queued code ↔ r.command = .queued code) ∧ q.command.code? = r.command.code? ∧
    q.assured = r.assured := by
  obtain ⟨command, rfl, rfl | ⟨code, tries, phase, tries', phase', hr, rfl⟩⟩ := h
  · exact ⟨.rfl, fun _ => .rfl, rfl, rfl⟩
  · rw [Rail.assured_of_outstanding hr, hr]
    exact ⟨iff_of_false nofun nofun, fun _ => iff_of_false nofun nofun, rfl, rfl⟩

theorem Rail.Fits.onward {r q : Rail} (h : r.Fits) (hq : r.Onward q) : q.Fits := by
  obtain ⟨hnone, -, hcode, -⟩ := hq.command
  obtain ⟨command, rfl, hcommand⟩ := hq
  refine ⟨h.window, h.fallback, h.retention, h.stepTime, h.cause, fun hs => ⟨(h.held hs).1, hnone.2 (h.held hs).2⟩,
    fun hs => hnone.2 (h.shut hs), fun hs c hc => h.falling hs c (hcode ▸ hc), fun c hc => h.command c (hcode ▸ hc),
    fun hf c tries phase hout => ?_⟩
  obtain rfl | ⟨code, tries, phase, tries', phase', hr, rfl⟩ := hcommand
  · exact h.outstanding hf c tries phase hout
  · injection hout with hsame
    exact hsame ▸ h.outstanding hf code _ _ hr

theorem State.Followed.onward {v : RailId} (h : s.Followed v) (hsetups : t.setups = s.setups)
    (hrail : (s.rail v).Onward (t.rail v)) (hdomains : ∀ e, s.railOf e = v →
      (t.domain e).need = (s.domain e).need ∧ ((t.domain e).state = .parked ↔ (s.domain e).state = .parked)) :
    t.Followed v := by
  obtain ⟨hnone, hqueued, hcode, -⟩ := hrail.command
  obtain ⟨command, hq, -⟩ := hrail
  have hrequired : t.requiredCode v = s.requiredCode v :=
    State.requiredCode_congr hsetups hdomains (by rw [hq]; exact ⟨rfl, rfl, rfl⟩)
  have hparked : t.allParked v = s.allParked v := by
    rw [Bool.eq_iff_iff, State.allParked_iff, State.allParked_iff]
    refine forall_congr' fun e => ?_
    rw [State.railOf_congr hsetups]
    exact imp_congr_right fun he => (hdomains e he).2
  have hordinary : (t.rail v).ordinaryState (t.allParked v) = (s.rail v).ordinaryState (s.allParked v) := by
    rw [Rail.ordinaryState, hcode, hparked, hq]
    rfl
  constructor
  case required => rw [hrequired, hq]; exact h.required
  case idle => exact fun hf hn => by rw [hq] at hf ⊢; exact h.idle hf (hnone.1 hn)
  case queued => exact fun hf c hc => by rw [hq] at hf ⊢; exact h.queued hf c ((hqueued c).1 hc)
  case state => exact fun hf => by rw [hordinary]; rw [hq] at hf ⊢; exact h.state hf

/-- The settings stay, domains and rails only wait, and what else is read still fits. -/
theorem State.Consistent.congr {fit closed : DomainId → Prop} {followed : RailId → Prop}
    (h : s.Consistent strict fit closed followed) (hsetups : t.setups = s.setups)
    (hdomain : ∀ e, (s.domain e).Paced (t.domain e)) (hrail : ∀ w, (s.rail w).Onward (t.rail w))
    (hconsent : t.ConsentSound) (htransfer : t.TransferSound)
    (hfloor : ∀ e, fit e → (s.domain e).state = .parked → t.hasFloor e = true → s.hasFloor e = true)
    (hstatuses : strict → ∀ e, fit e → t.StatusesFit e) : t.Consistent strict fit closed followed where
  setups e := by
    obtain ⟨command, hq, -⟩ := hrail (s.railOf e)
    exact (h.setups e).congr hsetups (by rw [hq]) (by rw [hq]) (by rw [hq])
  fits e he := by
    obtain ⟨hnone, -, -, hassured⟩ := (hrail (s.railOf e)).command
    obtain ⟨command, hq, -⟩ := hrail (s.railOf e)
    exact ((h.fits e he).congr hsetups (by rw [hq]) (by rw [hq]) (by rw [hq]) (fun _ => mt hnone.2) (by rw [hq])
      fun _ => BitVec.le_of_eq hassured.symm).paced (hdomain e)
  parked e he hparked := by
    obtain ⟨lock, gate, quiet, news, hd, -⟩ := hdomain e
    rw [hd] at hparked ⊢
    obtain ⟨hnone, hforce⟩ := h.parked e he hparked
    exact ⟨Bool.eq_false_iff.2 fun hf => Bool.eq_false_iff.1 hnone (hfloor e he hparked hf), hforce⟩
  statuses := hstatuses
  rails w := (h.rails w).onward (hrail w)
  consent := hconsent
  transfer := htransfer
  closed e he := (h.closed e he).paced hsetups (hdomain e)
  followed w hw := (h.followed w hw).onward hsetups (hrail w) fun e _ => by
    rw [(hdomain e).state.1, (hdomain e).state.2]; exact ⟨rfl, .rfl⟩

/-- Records and channel stay too. -/
theorem State.Consistent.aside {fit closed : DomainId → Prop} {followed : RailId → Prop}
    (h : s.Consistent strict fit closed followed) (htransfer : t.TransferSound)
    (hsetups : t.setups = s.setups := by rfl) (hdomains : t.domains = s.domains := by rfl)
    (hrails : t.rails = s.rails := by rfl) (hpark : t.park = s.park := by rfl)
    (hrecords : t.records = s.records := by rfl) : t.Consistent strict fit closed followed := by
  have hdomain (e : DomainId) : t.domain e = s.domain e := by rw [State.domain, hdomains]; rfl
  have hrecord (k : Handle) : t.record k = s.record k := by rw [State.record, hrecords]; rfl
  have hrail (w : RailId) : t.rail w = s.rail w := by rw [State.rail, hrails]; rfl
  refine h.congr hsetups (fun e => by rw [hdomain]; exact .refl _) (fun w => by rw [hrail]; exact .refl _)
    (h.consent.congr (by rw [hpark]) (by rw [hpark]) fun e => by rw [hdomain]) htransfer
    (fun e _ _ hf => (State.hasFloor_congr (t := s) e fun k => by rw [hrecord]).trans hf) fun hq e he => ?_
  exact (h.statuses hq e he).congr (by rw [hdomain]) fun k q hk hd => ⟨q, hrecord k ▸ hk, hd, rfl⟩

/-! ### A re-evaluation (R86 to R88) -/

theorem State.reevaluate_railOf (s : State) (v : RailId) (e : DomainId) : (s.reevaluate v).railOf e = s.railOf e :=
  State.railOf_congr (s.reevaluate_setups v) e

theorem State.reevaluate_similar (s : State) (v w : RailId) : (s.rail w).Similar ((s.reevaluate v).rail w) := by
  rw [State.reevaluate_rail]
  split
  · next h =>
    rw [h, State.reevaluated_eq_rail]
    exact Rail.similar_reevaluated _ _ _
  · exact .refl _

theorem State.reevaluate_followed (s : State) (v : RailId) : (s.reevaluate v).Followed v := by
  have hrail : (s.reevaluate v).rail v = (s.rail v).reevaluated (s.requiredCode v) (s.allParked v) := by
    rw [State.reevaluate_rail, if_pos rfl]
    rfl
  have hrequired := s.reevaluate_requiredCode v v
  have hparked := s.reevaluate_allParked v v
  cases hf : (s.rail v).faulted with
  | true =>
    rw [Rail.reevaluated_of_faulted hf] at hrail
    have hfaulted : ((s.reevaluate v).rail v).faulted = true := by rw [hrail]; exact hf
    refine ⟨by rw [hrequired, hrail], ?_, ?_, ?_⟩ <;> intro hfree <;> rw [hfaulted] at hfree <;> cases hfree
  | false =>
    rw [Rail.reevaluated_of_free hf] at hrail
    have hordinary : ((s.reevaluate v).rail v).state =
        ((s.reevaluate v).rail v).ordinaryState ((s.reevaluate v).allParked v) := by rw [hparked, hrail]; rfl
    rcases Rail.commandRule_cases { s.rail v with required := s.requiredCode v } with ⟨code, tries, phase, hout, e⟩ |
      ⟨-, heq, e⟩ | ⟨-, hne, e⟩ <;> rw [e] at hrail <;> refine ⟨by rw [hrequired, hrail], ?_, ?_, fun _ => hordinary⟩ <;>
      rw [hrail]
    · exact fun _ hn => nomatch hn.symm.trans hout
    · exact fun _ c hc => nomatch hc.symm.trans hout
    · exact fun _ _ => heq.symm
    · exact fun _ c hc => nomatch hc
    · exact fun _ hn => nomatch hn
    · exact fun _ c hc => by
        obtain rfl := Command.queued.inj hc
        exact ⟨rfl, hne⟩

theorem State.reevaluate_electedSound (h : s.ElectedSound) (v : RailId) : (s.reevaluate v).ElectedSound := by
  cases hf : (s.rail v).faulted with
  | true =>
    have he : s.reevaluate v = s.setRail v { s.rail v with required := s.requiredCode v } := if_pos hf
    refine h.congr (by rw [he]; rfl) (by rw [he]; rfl) fun w => State.waiting_congr ?_
    rw [he, State.setRail_rail]
    split
    · next e => rw [e]
    · rfl
  | false =>
    have he : s.reevaluate v = ((s.setRail v { Rail.commandRule { s.rail v with required := s.requiredCode v } with
        state := (Rail.commandRule { s.rail v with required := s.requiredCode v }).ordinaryState
          (s.allParked v) })).chooseRail := if_neg (by rw [Bool.not_eq_true]; exact hf)
    rw [he]
    exact State.chooseRail_electedSound _

/-- A re-evaluation keeps what held, and of its rail brings about what the needs ask. -/
theorem State.Consistent.reevaluate {fit closed : DomainId → Prop} {followed : RailId → Prop}
    (h : s.Consistent strict fit closed followed) (v : RailId) :
    (s.reevaluate v).Consistent strict fit closed fun w => w = v ∨ followed w := by
  have hsetups := s.reevaluate_setups v
  have hsim := s.reevaluate_similar v
  have hdomain := s.reevaluate_domain v
  have hrecord := s.reevaluate_record v
  have hlink : (s.reevaluate v).link = { s.link with elected := (s.reevaluate v).link.elected } :=
    congrArg State.link (s.reevaluate_eq v)
  constructor
  case setups => exact fun e => (h.setups e).congr hsetups (hsim _).min (hsim _).max (hsim _).fallback
  case fits => exact fun e he => hdomain e ▸ (h.fits e he).similar hsetups (hsim _)
  case parked =>
    intro e he
    have hfloor : (s.reevaluate v).hasFloor e = s.hasFloor e := State.hasFloor_congr e fun k => by rw [hrecord]
    exact (h.parked e he).congr (by rw [hdomain]; exact fun hp => ⟨hp, rfl⟩) fun hf => hfloor ▸ hf
  case statuses =>
    exact fun hq e he => (h.statuses hq e he).congr (by rw [hdomain]) fun k q hk hd => ⟨q, hrecord k ▸ hk, hd, rfl⟩
  case rails =>
    intro w
    rw [State.reevaluate_rail]
    split
    · exact (h.rails v).reevaluated (h.rails v).inside_required _
    · exact h.rails w
  case consent =>
    exact h.consent.congr (by rw [State.reevaluate_park]) (by rw [State.reevaluate_park]) fun e => by rw [hdomain]
  case transfer =>
    exact h.transfer.congr (by rw [hlink]) (by rw [hlink]) (by rw [hlink]) (by rw [hlink]) fun w code tries =>
      (hsim w).outstanding code tries _
  case closed => exact fun e he => (h.closed e he).congr hsetups (hdomain e)
  case followed =>
    intro w hw
    by_cases e : w = v
    · rw [e]; exact s.reevaluate_followed v
    · refine (h.followed w (hw.resolve_left e)).congr hsetups (by rw [State.reevaluate_rail, if_neg e]) fun x _ => ?_
      rw [hdomain]
      exact ⟨rfl, .rfl⟩

theorem State.Coherent.reevaluate {fit closed : DomainId → Prop} {followed : RailId → Prop}
    (h : s.Coherent strict fit closed followed) (v : RailId) :
    (s.reevaluate v).Coherent strict fit closed fun w => w = v ∨ followed w :=
  ⟨h.toConsistent.reevaluate v, s.reevaluate_electedSound h.elected v⟩

/-- Outside fault handling a re-evaluation chooses among the rails too. -/
theorem State.Consistent.reevaluate_coherent {fit closed : DomainId → Prop} {followed : RailId → Prop} {v : RailId}
    (h : s.Consistent strict fit closed followed) (hfree : (s.rail v).faulted = false) :
    (s.reevaluate v).Coherent strict fit closed fun w => w = v ∨ followed w := by
  have he : s.reevaluate v = ((s.setRail v { Rail.commandRule { s.rail v with required := s.requiredCode v } with
      state := (Rail.commandRule { s.rail v with required := s.requiredCode v }).ordinaryState
        (s.allParked v) })).chooseRail := if_neg (by rw [Bool.not_eq_true]; exact hfree)
  exact ⟨h.reevaluate v, he ▸ State.chooseRail_electedSound _⟩

/-- The choice of a rail leaves the rest as it is. -/
theorem State.Consistent.chooseRail {fit closed : DomainId → Prop} {followed : RailId → Prop}
    (h : s.Consistent strict fit closed followed) : s.chooseRail.Coherent strict fit closed followed := by
  have he := s.chooseRail_eq
  refine ⟨h.aside (h.transfer.congr ?_ ?_ ?_ ?_ fun w code tries => by rw [State.chooseRail_rail]) ?_ ?_ ?_ ?_ ?_,
    s.chooseRail_electedSound⟩
  all_goals rw [he]

/-! ### An event of one domain -/

/-- An event of domain d that its rail has not yet taken: besides the frame of the domain, the rails and the link are as
they were (R65). -/
structure State.DomainMove (d : DomainId) (s t : State) : Prop where
  frame : s.DomainFrame d t
  rails : t.rails = s.rails
  link : t.link = s.link

theorem State.DomainMove.refl (d : DomainId) (s : State) : s.DomainMove d s := ⟨.refl d s, rfl, rfl⟩

theorem State.DomainMove.trans {u : State} (h : s.DomainMove d t) (k : t.DomainMove d u) : s.DomainMove d u :=
  ⟨h.frame.trans k.frame, k.rails.trans h.rails, k.link.trans h.link⟩

theorem State.DomainMove.ite {u : State} {c : Prop} [Decidable c] (h : s.DomainMove d t) (k : s.DomainMove d u) :
    s.DomainMove d (if c then t else u) := by
  split
  exacts [h, k]

theorem State.DomainMove.rail (h : s.DomainMove d t) (v : RailId) : t.rail v = s.rail v := by
  rw [State.rail, h.rails]; rfl

theorem State.DomainMove.assured (h : s.DomainMove d t) (v : RailId) : t.assured v = s.assured v :=
  congrArg Rail.assured (h.rail v)

theorem State.DomainMove.fits (h : s.DomainMove d t) {e : DomainId} {c : Domain} : t.Fits e c ↔ s.Fits e c :=
  ⟨fun hf => hf.similar h.frame.setups.symm (by rw [h.rail]; exact .refl _),
    fun hf => hf.similar h.frame.setups (by rw [h.rail]; exact .refl _)⟩

/-- What the relations of the other domains and rails read is in the frame of domain d. -/
theorem State.Coherent.move {fit closed fit' closed' : DomainId → Prop} {followed followed' : RailId → Prop}
    (h : s.Coherent strict fit closed followed) (hmove : s.DomainMove d t) (hconsent : t.ConsentSound)
    (hfit : ∀ e, fit' e → e ≠ d → fit e) (hclosed : ∀ e, closed' e → e ≠ d ∧ closed e)
    (hfollowed : ∀ v, followed' v → v ≠ s.railOf d ∧ followed v)
    (hd : fit' d → s.Fits d (t.domain d) ∧ t.ParkFits d ∧ (strict → t.StatusesFit d)) :
    t.Coherent strict fit' closed' followed' := by
  have hframe := hmove.frame
  refine ⟨?_, h.elected.congr (by rw [hmove.link]) (by rw [State.linkBusy, hmove.link]; rfl) fun v =>
    State.waiting_congr (by rw [hmove.rail])⟩
  constructor
  case setups =>
    exact fun e => (h.setups e).congr hframe.setups (by rw [hmove.rail]) (by rw [hmove.rail]) (by rw [hmove.rail])
  case fits =>
    intro e he
    by_cases hed : e = d
    · subst hed; exact hmove.fits.2 (hd he).1
    · rw [hframe.domains e hed]; exact hmove.fits.2 (h.fits e (hfit e he hed))
  case parked =>
    intro e he
    by_cases hed : e = d
    · subst hed; exact (hd he).2.1
    · refine (h.parked e (hfit e he hed)).congr ?_ fun hf => hframe.hasFloor e ▸ hf
      rw [hframe.domains e hed]
      exact fun hp => ⟨hp, rfl⟩
  case statuses =>
    intro hq e he
    by_cases hed : e = d
    · subst hed; exact (hd he).2.2 hq
    · refine (h.statuses hq e (hfit e he hed)).congr (by rw [hframe.domains e hed]) fun k q hk hqd => ?_
      obtain ⟨r, hr, -, hdom, -⟩ := hframe.record_back hk
      have hrd : r.domain = e := hdom ▸ hqd
      have hsame := hframe.others k r hr (hrd ▸ hed)
      obtain rfl := Option.some.inj (hsame.symm.trans hk)
      exact ⟨r, hr, hrd, rfl⟩
  case rails => intro v; rw [hmove.rail]; exact h.rails v
  case consent => exact hconsent
  case transfer =>
    exact h.transfer.congr (by rw [hmove.link]) (by rw [hmove.link]) (by rw [hmove.link]) (by rw [hmove.link])
      fun v code tries => by rw [hmove.rail]
  case closed =>
    intro e he
    obtain ⟨hed, hc⟩ := hclosed e he
    exact (h.closed e hc).congr hframe.setups (hframe.domains e hed)
  case followed =>
    intro v hv
    obtain ⟨hvd, hf⟩ := hfollowed v hv
    refine (h.followed v hf).congr hframe.setups (hmove.rail v) fun e he => ?_
    have hed : e ≠ d := fun hed => hvd (hed ▸ he.symm)
    rw [hframe.domains e hed]
    exact ⟨rfl, .rfl⟩

/-! ### The end of an event of one domain (R65, R78) -/

/-- Nothing that a domain must fit reads its need, its quiet timer or the news of an assured code. -/
theorem State.Fits.closing {c : Domain} (h : s.Fits d c) (need : Option Byte) (quiet : Option Nat) (news : Bool) :
    s.Fits d { c with need := need, quietTimer := quiet, assuredNews := news } :=
  ⟨h.current, h.target, h.step, h.moves, h.held, h.shut, h.inPlace, h.frozen, h.running, h.clock, h.raising⟩

theorem State.DomainMove.closeDomain (s : State) (d : DomainId) : s.DomainMove d (s.closeDomain d) :=
  ⟨.closeDomain s d, rfl, rfl⟩

theorem State.closeDomain_closed (s : State) (d : DomainId) : (s.closeDomain d).Closed d := by
  have hdomain : (s.closeDomain d).domain d = { s.domain d with quietTimer := s.quietAfter d, need := s.needOf d } := by
    rw [State.closeDomain_eq, State.setDomain_domain_self]
  have hneed : (s.closeDomain d).needOf d = s.needOf d := by
    rw [State.closeDomain_eq]
    exact s.needOf_setDomain d _ rfl rfl rfl rfl rfl
  refine ⟨by rw [hneed, hdomain], fun hquiet => ?_⟩
  rw [(State.DomainFrame.closeDomain s d).config]
  rw [hdomain] at hquiet ⊢
  have hq : s.quiet d = true := by
    by_contra hn
    exact hquiet (if_neg hn)
  simp only [State.quiet, Bool.and_eq_true, decide_eq_true_eq] at hq
  exact ⟨hq.1.1.1, hq.1.1.2, hq.2⟩

theorem State.Coherent.closeDomain {fit closed : DomainId → Prop} {followed : RailId → Prop}
    (h : s.Coherent strict fit closed followed) (d : DomainId) (hd : fit d) :
    (s.closeDomain d).Coherent strict fit (fun e => e = d ∨ closed e) fun v => v ≠ s.railOf d ∧ followed v := by
  have hdomain : (s.closeDomain d).domain d = { s.domain d with quietTimer := s.quietAfter d, need := s.needOf d } := by
    rw [State.closeDomain_eq, State.setDomain_domain_self]
  have hstate (e : DomainId) : ((s.closeDomain d).domain e).state = (s.domain e).state := by
    by_cases he : e = d
    · rw [he, hdomain]
    · rw [(State.DomainFrame.closeDomain s d).domains e he]
  have hmoved : (s.closeDomain d).Coherent strict fit (fun e => e ≠ d ∧ closed e) fun v => v ≠ s.railOf d ∧ followed v := by
    refine h.move (.closeDomain s d) (h.consent.congr rfl rfl fun e => by rw [hstate]) (fun e he _ => he)
      (fun e he => he) (fun v hv => hv) fun _ => ⟨?_, ?_, fun hq => ?_⟩
    · rw [hdomain]; exact (h.fits d hd).closing _ _ _
    · exact (h.parked d hd).congr (by rw [hdomain]; exact fun hp => ⟨hp, rfl⟩) id
    · exact (h.statuses hq d hd).congr (hstate d) fun k q hk hqd => ⟨q, hk, hqd, rfl⟩
  refine { hmoved with closed := fun e he => ?_ }
  by_cases hed : e = d
  · rw [hed]; exact s.closeDomain_closed d
  · exact hmoved.closed e ⟨hed, he.resolve_left hed⟩

/-- The end of an event of domain d, with its rail's taking of the need, completes the relations. -/
theorem State.Coherent.finish {fit closed : DomainId → Prop} {followed : RailId → Prop}
    (h : s.Coherent strict fit closed followed) (d : DomainId) (hd : fit d) :
    (s.finish d).Coherent strict fit (fun e => e = d ∨ closed e) fun v => v = s.railOf d ∨ followed v := by
  refine ((h.closeDomain d hd).reevaluate (s.railOf d)).mono (fun _ he => he) (fun _ he => he) fun v hv => ?_
  by_cases e : v = s.railOf d
  · exact .inl e
  · exact .inr ⟨e, hv.resolve_left e⟩

/-- The state in the middle of an event of domain d. -/
abbrev State.Open (strict : Prop) (d : DomainId) (s : State) : Prop :=
  s.Coherent strict (fun _ => True) (· ≠ d) (· ≠ s.railOf d)

theorem State.Coherent.finish_whole (h : s.Open strict d) : (s.finish d).Whole strict :=
  (h.finish d trivial).mono (fun _ _ => trivial) (fun e _ => em (e = d)) fun v _ => em (v = s.railOf d)

end Sys2Proof.Machine
end

section
/-! PROOFS. What the operations of one domain controller make of it: from a controller that is ready for it, each of them
leads to one that fits its state again, with statuses that fit, and the consent channel stays sound. -/

-- The proofs are elaborated one after another: side by side they would exceed the memory that the check allows.
set_option Elab.async false

namespace Sys2Proof.Machine

variable {strict : Prop} {s t : State} {d : DomainId}

/-! ### Controllers that are ready to move -/

/-- No step is in flight, no timer of a move runs, and no fault is held (R62). -/
structure Domain.Idle (c : Domain) : Prop where
  step : c.step = none
  lock : c.lockTimer = none
  gate : c.gateTimer = none
  cause : c.cause = .none

/-- An idle controller with valid levels, whose rail is outside fault handling. -/
structure State.Ready (s : State) (d : DomainId) (c : Domain) : Prop where
  idle : c.Idle
  current : (s.point d c.current).valid = true
  target : (s.point d c.target).valid = true
  free : (s.rail (s.railOf d)).faulted = false

/-- A ready controller with its clock running, its current level covered by its rail: it may plan (R65, R66). -/
structure State.Runs (s : State) (d : DomainId) (c : Domain) : Prop extends s.Ready d c where
  gated : c.gated = false
  covered : s.code d c.current ≤ s.assured (s.railOf d)

/-- Outside a step, a gate settle time and a fault the controller is idle (R62, R69, R73). -/
theorem Domain.MovesSound.idle {c : Domain} (h : c.MovesSound)
    (hs : c.state = .steady ∨ c.state = .raising ∨ c.state = .consent ∨ c.state = .parked ∨ c.state = .waking .rail) :
    c.Idle := by
  obtain ⟨-, -, -, -, hstep, hlock, -, hgate, hcause, -, -⟩ := h
  have hnone : c.step = none := by
    by_contra hne
    rcases hs with e | e | e | e | e <;> simp [e] at hstep <;> exact hne hstep
  refine ⟨hnone, by_contra fun hne => (hlock hne).1 hnone, by_contra fun hne => ?_, by_contra fun hne => ?_⟩
  · rcases hs with e | e | e | e | e <;> simp [e] at hgate <;> exact hne hgate
  · rcases hs with e | e | e | e | e <;> simp [e] at hcause <;> exact hne hcause

/-- A domain that is neither FROZEN nor OFF has a rail outside fault handling (R126, R131). -/
theorem State.Fits.free {c : Domain} (h : s.Fits d c) (hfrozen : c.state = .frozen → c.cause ≠ .rail)
    (hoff : c.state ≠ .off) : (s.rail (s.railOf d)).faulted = false :=
  Rail.not_faulted.2 ⟨fun e => hfrozen (h.held.1 (.inl e)).1 (h.held.1 (.inl e)).2,
    fun e => hfrozen (h.held.1 (.inr e)).1 (h.held.1 (.inr e)).2, fun e => hoff (h.shut.1 e)⟩

theorem State.Fits.ready {c : Domain} (h : s.Fits d c)
    (hs : c.state = .steady ∨ c.state = .raising ∨ c.state = .consent ∨ c.state = .parked ∨ c.state = .waking .rail) :
    s.Ready d c := by
  refine ⟨h.moves.idle hs, h.current, h.target, h.free ?_ ?_⟩ <;> rcases hs with e | e | e | e | e <;> simp [e]

theorem State.Fits.runs {c : Domain} (h : s.Fits d c)
    (hs : c.state = .steady ∨ c.state = .raising ∨ c.state = .consent) : s.Runs d c := by
  have hready := h.ready (hs.imp_right (Or.imp_right .inl))
  refine ⟨hready, h.moves.2.2.1 false ?_, (h.running hready.free ?_).1⟩ <;>
    rcases hs with e | e | e <;> simp [Domain.running, e, DomainState.gate]

/-- Another valid target leaves a controller ready. -/
theorem State.Ready.retarget {c : Domain} (h : s.Ready d c) {l : Level} (hl : (s.point d l).valid = true)
    (g : Governing) : s.Ready d { c with target := l, source := g } :=
  ⟨⟨h.idle.step, h.idle.lock, h.idle.gate, h.idle.cause⟩, h.current, hl, h.free⟩

theorem State.Runs.retarget {c : Domain} (h : s.Runs d c) {l : Level} (hl : (s.point d l).valid = true)
    (g : Governing) : s.Runs d { c with target := l, source := g } :=
  ⟨h.toReady.retarget hl g, h.gated, h.covered⟩

theorem State.Ready.congr {c : Domain} (h : s.Ready d c) (hmove : s.DomainMove d t) : t.Ready d c :=
  ⟨h.idle, by rw [hmove.frame.point]; exact h.current, by rw [hmove.frame.point]; exact h.target,
    by rw [hmove.frame.railOf, hmove.rail]; exact h.free⟩

/-- Where the rail is outside fault handling, a controller fits by its levels and its own items. -/
theorem State.Fits.of_free {c : Domain} (hfree : (s.rail (s.railOf d)).faulted = false)
    (hcurrent : (s.point d c.current).valid = true) (htarget : (s.point d c.target).valid = true)
    (hstep : ∀ l ∈ c.step, (s.point d l).valid = true) (hmoves : c.MovesSound)
    (hfrozen : c.state = .frozen → c.cause = .clock) (hoff : c.state ≠ .off)
    (hrunning : c.running = true → s.code d c.current ≤ s.assured (s.railOf d) ∧
      ∀ l ∈ c.step, s.code d l ≤ s.assured (s.railOf d))
    (hclock : c.state = .waking .clock → ∀ l ∈ c.step, s.code d l ≤ s.assured (s.railOf d))
    (hraising : c.state = .raising → s.code d c.current < s.code d c.target) : s.Fits d c := by
  obtain ⟨h1, h2, h3⟩ := Rail.not_faulted.1 hfree
  refine ⟨hcurrent, htarget, hstep, hmoves, ?_, iff_of_false h3 hoff, ?_, fun hs hg => ?_, fun _ => hrunning,
    fun _ => hclock, fun _ => hraising⟩
  · exact iff_of_false (fun h => h.elim h1 h2) fun ⟨hs, hc⟩ => by rw [hfrozen hs] at hc; cases hc
  · exact fun h => h.elim (fun e => absurd e h2) fun e => absurd e.1 h1
  · have := hmoves.2.2.2.2.2.2.2.2.2.2 (hfrozen hs)
    rw [hg] at this
    cases this

/-- A controller that does not run and starts nothing fits where its levels are valid. -/
theorem State.Ready.fits {c e : Domain} (h : s.Ready d c) (hcurrent : e.current = c.current)
    (htarget : e.target = c.target) (hstep : e.step = none) (hmoves : e.MovesSound) (hfrozen : e.state ≠ .frozen)
    (hoff : e.state ≠ .off) (hstopped : e.running = false) : s.Fits d e := by
  refine .of_free h.free (hcurrent ▸ h.current) (htarget ▸ h.target) (fun l hl => ?_) hmoves (fun e => absurd e hfrozen)
    hoff (fun hr => ?_) (fun _ l hl => ?_) fun hr => ?_
  · rw [hstep] at hl; cases hl
  · rw [hstopped] at hr; cases hr
  · rw [hstep] at hl; cases hl
  · simp [Domain.running, hr] at hstopped

/-! ### Statuses -/

/-- No record on the domain is HELD. -/
def State.NoneHeld (s : State) (d : DomainId) : Prop := ∀ h, ∀ r ∈ s.record h, r.domain = d → r.status ≠ .held

theorem State.StatusesFit.noneHeld (h : s.StatusesFit d) (hfrozen : (s.domain d).state ≠ .frozen)
    (hoff : (s.domain d).state ≠ .off) : s.NoneHeld d :=
  fun k r hr hd hs => (((h k r hr hd).1.1 hs).elim hfrozen hoff)

theorem State.NoneHeld.congr (h : s.NoneHeld d) (hrec : ∀ k, t.record k = s.record k) : t.NoneHeld d :=
  fun k r hr => h k r (hrec k ▸ hr)

/-- On a settled or PARKED domain any status but HELD fits. -/
theorem State.StatusesFit.of_judged (hstate : (t.domain d).state = .steady ∨ (t.domain d).state = .parked)
    (hrec : ∀ k r, t.record k = some r → r.domain = d → r.status ≠ .held) : t.StatusesFit d := by
  intro k r hr hd
  refine ⟨iff_of_false (hrec k r hr hd) ?_, fun _ => hstate⟩
  rcases hstate with e | e <;> simp [e]

/-- Outside FROZEN and OFF a PENDING record fits. -/
theorem State.StatusesFit.of_pending (hfrozen : (t.domain d).state ≠ .frozen) (hoff : (t.domain d).state ≠ .off)
    (hrec : ∀ k r, t.record k = some r → r.domain = d → r.status = .pending) : t.StatusesFit d := by
  intro k r hr hd
  rw [hrec k r hr hd]
  exact ⟨iff_of_false (fun h => nomatch h) fun h => h.elim hfrozen hoff, fun h => h.elim (fun e => nomatch e) fun e =>
    nomatch e⟩

/-- Between two states in which the same statuses fit nothing is asked of the records. -/
theorem State.StatusesFit.of_alike (h : s.StatusesFit d) (hrec : ∀ k, t.record k = s.record k)
    (hheld : (t.domain d).state = .frozen ∨ (t.domain d).state = .off ↔
      (s.domain d).state = .frozen ∨ (s.domain d).state = .off)
    (hjudged : (s.domain d).state = .steady ∨ (s.domain d).state = .parked →
      (t.domain d).state = .steady ∨ (t.domain d).state = .parked) : t.StatusesFit d := by
  intro k r hr hd
  obtain ⟨h1, h2⟩ := h k r (hrec k ▸ hr) hd
  exact ⟨h1.trans hheld.symm, hjudged ∘ h2⟩

theorem Record.unsettled_pending {r : Record} (h : r.status ≠ .held) : r.unsettled.status = .pending := by
  unfold Record.unsettled
  split
  · rfl
  · next hn =>
    cases hs : r.status with
    | pending => rfl
    | inForce => exact absurd (.inl hs) hn
    | clamped => exact absurd (.inr hs) hn
    | held => exact absurd hs h

theorem Record.evaluatedAt_not_held (r : Record) (current : Level) : (r.evaluatedAt current).status ≠ .held := by
  unfold Record.evaluatedAt
  split <;> exact fun h => nomatch h

theorem Record.evaluatedParked_not_held {r : Record} (h : r.status ≠ .held) : r.evaluatedParked.status ≠ .held := by
  unfold Record.evaluatedParked
  split
  · exact fun h => nomatch h
  · exact h

/-- The records on a domain after all of them have been rewritten. -/
theorem State.forall_rewritten {f : Record → Record} {P : Record → Prop}
    (hrec : ∀ k, t.record k = (s.record k).map fun r => if r.domain = d then f r else r)
    (hP : ∀ k r, s.record k = some r → r.domain = d → P (f r)) :
    ∀ k q, t.record k = some q → q.domain = d → P q := by
  intro k q hq hd
  rw [hrec] at hq
  obtain ⟨r, hr, rfl⟩ := Option.map_eq_some_iff.1 hq
  by_cases e : r.domain = d
  · rw [if_pos e]; exact hP k r hr e
  · rw [if_neg e] at hd; exact absurd hd e

/-! ### The consent channel (R106 to R114) -/

/-- The request at the head of the queue is sent: the channel holds the same domains. -/
theorem State.ConsentSound.serve (h : s.ConsentSound) : s.serveConsent.ConsentSound := by
  obtain ⟨hnodup, hout, hmem⟩ := h
  have hpark := s.serveConsent_park
  by_cases hfree : s.channelFree = true
  · rw [if_pos hfree] at hpark
    have hrequest : s.park.request = none := by
      simp only [State.channelFree, State.creq, Bool.and_eq_true, Bool.not_eq_true', Option.isSome_eq_false_iff,
        Option.isNone_iff_eq_none] at hfree
      exact hfree.1.1
    cases hq : s.park.queue with
    | nil =>
      rw [hq] at hpark
      exact State.ConsentSound.congr ⟨hnodup, hout, hmem⟩ (by rw [hpark]) (by rw [hpark]) fun e => by
        rw [State.serveConsent_domain]
    | cons e rest =>
      rw [hq] at hpark hnodup hmem
      refine ⟨by rw [hpark]; exact (List.nodup_cons.1 hnodup).2, fun x hx => ?_, fun x => ?_⟩
      · rw [hpark] at hx ⊢
        obtain rfl := Option.some.inj hx
        exact (List.nodup_cons.1 hnodup).1
      · rw [State.serveConsent_domain, hmem x, hpark, hrequest]
        simp only [List.mem_cons, Option.map_none, reduceCtorEq, or_false, Option.map_some, Option.some.injEq]
        exact or_comm.trans (or_congr .rfl eq_comm)
  · rw [if_neg hfree] at hpark
    exact State.ConsentSound.congr ⟨hnodup, hout, hmem⟩ (by rw [hpark]) (by rw [hpark]) fun e => by
      rw [State.serveConsent_domain]

/-- The domains of `ds` have left the channel and CONSENT. -/
theorem State.ConsentSound.leave (h : s.ConsentSound) {ds : List DomainId}
    (hqueue : t.park.queue = s.park.queue.filter fun e => e ∉ ds)
    (hrequest : t.park.request = s.park.request.filter fun x => x.1 ∉ ds)
    (hstates : ∀ e, (t.domain e).state = .consent ↔ (s.domain e).state = .consent ∧ e ∉ ds) : t.ConsentSound := by
  obtain ⟨hnodup, hout, hmem⟩ := h
  refine ⟨hqueue ▸ hnodup.filter _, fun x hx => ?_, fun e => ?_⟩
  · rw [hrequest, Option.mem_def, Option.filter_eq_some_iff] at hx
    rw [hqueue]
    exact fun hm => hout x hx.1 (List.mem_filter.1 hm).1
  · rw [hstates, hmem, hqueue, hrequest, List.mem_filter]
    cases hr : s.park.request with
    | none => simp
    | some x =>
      by_cases hx : x.1 ∈ ds
      · simp only [Option.filter, hx, not_true_eq_false, decide_false]
        constructor
        · rintro ⟨hq | hq, he⟩
          · exact .inl ⟨hq, by simpa using he⟩
          · obtain rfl := Option.some.inj hq; exact absurd hx he
        · rintro (⟨hq, he⟩ | hq)
          · exact ⟨.inl hq, by simpa using he⟩
          · cases hq
      · simp only [Option.filter, hx, not_false_eq_true, decide_true, if_true, Option.map_some, Option.some.injEq]
        constructor
        · rintro ⟨hq | rfl, he⟩
          · exact .inl ⟨hq, by simpa using he⟩
          · exact .inr rfl
        · rintro (⟨hq, he⟩ | rfl)
          · exact ⟨.inl hq, by simpa using he⟩
          · exact ⟨.inr rfl, hx⟩

end Sys2Proof.Machine
end

section
/-! PROOFS. The operations of one domain controller lead from a controller that is ready for them to one that fits its
state again, with statuses that fit; so a re-resolution, ended with its rail, keeps all relations. -/

-- The proofs are elaborated one after another: side by side they would exceed the memory that the check allows.
set_option Elab.async false

namespace Sys2Proof.Machine

variable {strict : Prop} {s t u : State} {d : DomainId}

/-! ### The operations leave the rails and the link to the end of the event -/

section Moves
variable (s d)

theorem State.DomainMove.setDomain {c : Domain} (hforce : c.force = (s.domain d).force)
    (hthrottled : c.throttled = (s.domain d).throttled) : s.DomainMove d (s.setDomain d c) :=
  ⟨.setDomain s hforce hthrottled, rfl, rfl⟩

theorem State.DomainMove.resolve : s.DomainMove d (s.resolve d) := ⟨.resolve s d, rfl, rfl⟩

theorem State.DomainMove.unsettleRecords : s.DomainMove d (s.unsettleRecords d) := ⟨.unsettleRecords s d, rfl, rfl⟩

theorem State.DomainMove.unholdRecords : s.DomainMove d (s.unholdRecords d) := ⟨.unholdRecords s d, rfl, rfl⟩

theorem State.DomainMove.holdRecords : s.DomainMove d (s.holdRecords d) := ⟨.holdRecords s d, rfl, rfl⟩

theorem State.DomainMove.evaluateParked : s.DomainMove d (s.evaluateParked d) :=
  ⟨.evaluate s d _, s.evaluate_rails d _, s.evaluate_link d _⟩

theorem State.DomainMove.plan : s.DomainMove d (s.plan d) := ⟨.plan s d, (s.plan_rest d).1, (s.plan_rest d).2.1⟩

theorem State.DomainMove.startStep (state : DomainState) (l : Level) : s.DomainMove d (s.startStep d state l) :=
  ⟨.startStep s d state l, rfl, rfl⟩

theorem State.DomainMove.completeStep (l : Level) : s.DomainMove d (s.completeStep d l) :=
  ⟨.completeStep s d l, rfl, rfl⟩

theorem State.DomainMove.endRequest : s.DomainMove d s.endRequest := ⟨.endRequest s d, rfl, rfl⟩

theorem State.DomainMove.leaveConsent (e : DomainId) : s.DomainMove d (s.leaveConsent e) :=
  ⟨.leaveConsent s d e, rfl, rfl⟩

theorem State.DomainMove.joinConsent (e : DomainId) : s.DomainMove d (s.joinConsent e) := by
  refine ⟨.joinConsent s d e, ?_, ?_⟩ <;> (unfold State.joinConsent; split <;> rfl)

theorem State.DomainMove.serveConsent : s.DomainMove d s.serveConsent :=
  ⟨.serveConsent s d, by rw [State.serveConsent_frame], by rw [State.serveConsent_frame]⟩

theorem State.DomainMove.withdrawn : s.DomainMove d (s.withdrawn d) :=
  ((State.DomainMove.leaveConsent s d d).trans (.serveConsent _ d)).trans
    (.setDomain _ d (by rw [State.serveConsent_domain]; rfl) (by rw [State.serveConsent_domain]; rfl))

theorem State.DomainMove.withdraw : s.DomainMove d (s.withdraw d) := by
  rw [State.withdraw_eq_plan]
  exact (State.DomainMove.withdrawn s d).trans (.plan _ d)

theorem State.DomainMove.granted : s.DomainMove d (s.granted d) := ⟨.granted s d, rfl, rfl⟩

theorem State.DomainMove.denied : s.DomainMove d (s.denied d) :=
  (State.DomainMove.setDomain s d (c := { s.domain d with state := .steady }) rfl rfl).trans (.plan _ d)

theorem State.DomainMove.checkRailStage : s.DomainMove d (s.checkRailStage d) := by
  refine ⟨.checkRailStage s d, ?_, ?_⟩ <;> (unfold State.checkRailStage; split <;> rfl)

theorem State.DomainMove.beginWake : s.DomainMove d (s.beginWake d) :=
  ((State.DomainMove.unsettleRecords s d).trans
    (.setDomain _ d (c := { s.domain d with state := .waking .rail, gated := true }) rfl rfl)).trans (.checkRailStage _ d)

theorem State.DomainMove.enterParked : s.DomainMove d (s.enterParked d) :=
  (State.DomainMove.setDomain s d (c := { s.domain d with state := .parked, gated := true }) rfl rfl).trans
    (.evaluateParked _ d)

theorem State.DomainMove.enterClock : s.DomainMove d (s.enterClock d) := by
  refine ⟨.enterClock s d, ?_, ?_⟩ <;> (unfold State.enterClock; dsimp only; split <;> rfl)

theorem State.DomainMove.act (old : Level) : s.DomainMove d (s.act d old) := by
  unfold State.act
  split
  · exact .plan s d
  · exact .ite (.refl d s) (.plan s d)
  · exact .refl d s
  · exact .ite (.withdraw s d) (.refl d s)
  · exact .refl d s
  · exact .ite (.beginWake s d) (.evaluateParked s d)
  · exact .checkRailStage s d
  all_goals exact .refl d s

end Moves

/-! ### Where an operation leaves its domain -/

/-- Seen from `s`, an operation of domain d has led to `t`, where the domain fits its state and the records on it. -/
structure State.Moved (strict : Prop) (d : DomainId) (s t : State) : Prop where
  move : s.DomainMove d t
  fits : s.Fits d (t.domain d)
  parked : t.ParkFits d
  statuses : strict → t.StatusesFit d

theorem State.DomainMove.moved (h : s.DomainMove d t) (k : t.Moved strict d u) : s.Moved strict d u :=
  ⟨h.trans k.move, h.fits.1 k.fits, k.parked, k.statuses⟩

/-- The relations hold of the whole part but for the end of an event of domain d. -/
theorem State.Moved.isOpen {fit closed : DomainId → Prop} {followed : RailId → Prop} (h : s.Moved strict d t)
    (hs : s.Coherent strict fit closed followed) (hfit : ∀ e ≠ d, fit e) (hclosed : ∀ e ≠ d, closed e)
    (hfollowed : ∀ v ≠ s.railOf d, followed v) (hconsent : t.ConsentSound) : t.Open strict d :=
  hs.move h.move hconsent (fun e _ he => hfit e he) (fun e he => ⟨he, hclosed e he⟩)
    (fun v hv => by rw [h.move.frame.railOf] at hv; exact ⟨hv, hfollowed v hv⟩) fun _ => ⟨h.fits, h.parked, h.statuses⟩

/-- Statuses that fit a domain outside FROZEN, OFF and the settled states: none is HELD, IN_FORCE or CLAMPED. -/
theorem State.StatusesFit.of_unsettled (hstate : (t.domain d).state ≠ .frozen ∧ (t.domain d).state ≠ .off)
    (hnone : s.NoneHeld d)
    (hrec : ∀ k, t.record k = (s.record k).map fun r => if r.domain = d then r.unsettled else r) : t.StatusesFit d :=
  .of_pending hstate.1 hstate.2
    (State.forall_rewritten hrec fun k r hr hd => Record.unsettled_pending (hnone k r hr hd))

/-! ### Planning (R66) -/

/-- A plan of a running domain leads to STEADY, RAISING or STEPPING (Table 4-4). -/
theorem State.Runs.plan (h : s.Runs d (s.domain d)) (hnone : strict → s.NoneHeld d) :
    s.Moved strict d (s.plan d) := by
  obtain ⟨⟨⟨hstep, hlock, hgate, hcause⟩, hcurrent, htarget, hfree⟩, hgated, hcovered⟩ := h
  have hdomain := s.plan_domain d
  have hrecord := s.plan_record d
  have hno : ∀ l ∈ (none : Option Level), s.code d l ≤ s.assured (s.railOf d) := fun l hl => nomatch hl
  by_cases hsettle : (s.domain d).target = (s.domain d).current
  case pos =>
    simp only [if_pos hsettle] at hdomain hrecord
    refine ⟨.plan s d, ?_, ?_, fun hq => ?_⟩
    · rw [hdomain]
      refine .of_free hfree hcurrent htarget (by simp [hstep]) ?_ nofun nofun (fun _ => ⟨hcovered, by simp [hstep]⟩) nofun nofun
      simp [Domain.MovesSound, DomainState.gate, hstep, hlock, hgate, hcause, hgated, hsettle]
    · rw [State.ParkFits, hdomain]; nofun
    · refine .of_judged (.inl (by rw [hdomain])) (State.forall_rewritten (P := fun r => r.status ≠ .held) hrecord
        fun k r _ _ => r.evaluatedAt_not_held _)
  case neg =>
    simp only [if_neg hsettle] at hdomain hrecord
    by_cases hcover : s.assured (s.railOf d) < s.code d (s.domain d).target
    case pos =>
      rw [if_pos hcover] at hdomain
      refine ⟨.plan s d, ?_, ?_, fun hq => ?_⟩
      · rw [hdomain]
        refine .of_free hfree hcurrent htarget (by simp [hstep]) ?_ nofun nofun (fun _ => ⟨hcovered, by simp [hstep]⟩) nofun
          fun _ => BitVec.lt_def.2 (Nat.lt_of_le_of_lt (BitVec.le_def.1 hcovered) (BitVec.lt_def.1 hcover))
        simp [Domain.MovesSound, DomainState.gate, hstep, hlock, hgate, hcause, hgated]
      · rw [State.ParkFits, hdomain]; nofun
      · exact .of_unsettled (by simp [hdomain]) (hnone hq) hrecord
    case neg =>
      rw [if_neg hcover] at hdomain
      have hle := BitVec.not_lt.1 hcover
      refine ⟨.plan s d, ?_, ?_, fun hq => ?_⟩
      · rw [hdomain]
        refine .of_free hfree hcurrent htarget (by simpa using htarget) ?_ nofun nofun (fun _ => ⟨hcovered, by simpa using hle⟩)
          nofun nofun
        simp [Domain.MovesSound, DomainState.gate, hgate, hcause, hgated]
      · rw [State.ParkFits, hdomain]; nofun
      · exact .of_unsettled (by simp [hdomain]) (hnone hq) hrecord

/-! ### Waking and parking (R110, R116 to R120) -/

/-- A controller in the RAIL stage of a wake compares: it stays, or opens its gate (R118, R119). -/
theorem State.Ready.checkRailStage (h : s.Ready d (s.domain d)) (hstate : (s.domain d).state = .waking .rail)
    (hgated : (s.domain d).gated = true) (hsettled : (s.domain d).settled = false)
    (hstatuses : strict → s.StatusesFit d) : s.Moved strict d (s.checkRailStage d) := by
  have hdomain := s.checkRailStage_domain d
  have hrecord (k : Handle) : (s.checkRailStage d).record k = s.record k := by
    unfold State.checkRailStage
    split <;> rfl
  obtain ⟨hstep, hlock, hgate, hcause⟩ := h.idle
  refine ⟨.checkRailStage s d, ?_, ?_, fun hq => (hstatuses hq).of_alike hrecord ?_ ?_⟩
  · split at hdomain <;> rw [hdomain] <;> refine h.fits rfl rfl hstep ?_ ?_ ?_ ?_
    all_goals simp [Domain.MovesSound, Domain.running, DomainState.gate, hstate, hstep, hlock, hgate, hcause, hgated, hsettled]
  · rw [State.ParkFits]; split at hdomain <;> simp [hdomain, hstate]
  · split at hdomain <;> simp [hdomain, hstate]
  · split at hdomain <;> simp [hdomain, hstate]

theorem State.Ready.beginWake (h : s.Ready d (s.domain d)) (hsettled : (s.domain d).settled = false)
    (hnone : strict → s.NoneHeld d) : s.Moved strict d (s.beginWake d) := by
  have hmove : s.DomainMove d ((s.unsettleRecords d).setDomain d { s.domain d with state := .waking .rail, gated := true }) :=
    (State.DomainMove.unsettleRecords s d).trans (.setDomain _ d rfl rfl)
  obtain ⟨hstep, hlock, hgate, hcause⟩ := h.idle
  refine hmove.moved (State.Ready.checkRailStage ?_ ?_ ?_ ?_ fun hq => ?_) <;> try rw [State.setDomain_domain_self]
  · exact State.Ready.congr ⟨⟨hstep, hlock, hgate, hcause⟩, h.current, h.target, h.free⟩ hmove
  · exact hsettled
  · exact .of_unsettled (by rw [State.setDomain_domain_self]; exact ⟨nofun, nofun⟩) (hnone hq) (s.unsettleRecords_record d)

theorem State.Ready.enterParked (h : s.Ready d (s.domain d)) (hsettled : (s.domain d).settled = false)
    (hwanted : s.wanted d = false) (hnone : strict → s.NoneHeld d) : s.Moved strict d (s.enterParked d) := by
  have hdomain := s.enterParked_domain d
  obtain ⟨hstep, hlock, hgate, hcause⟩ := h.idle
  refine ⟨.enterParked s d, ?_, fun _ => ?_, fun hq => ?_⟩
  · rw [hdomain]
    refine h.fits rfl rfl hstep ?_ nofun nofun rfl
    simp [Domain.MovesSound, DomainState.gate, hstep, hlock, hgate, hcause, hsettled]
  · have hframe := State.DomainFrame.enterParked s d
    rw [State.wanted, Bool.or_eq_false_iff] at hwanted
    rw [hframe.hasFloor, hframe.force]
    exact ⟨hwanted.1, by simpa using hwanted.2⟩
  · exact .of_judged (.inr (by rw [hdomain])) (State.forall_rewritten (P := fun r => r.status ≠ .held)
      (s.enterParked_record d) fun k r hr hd => Record.evaluatedParked_not_held (hnone hq k r hr hd))

/-! ### The consent channel -/

/-- An operation of domain d that leaves the channel and whether d is in CONSENT leaves the channel sound. -/
theorem State.ConsentSound.unmoved (h : s.ConsentSound) (hframe : s.DomainFrame d t) (hpark : t.park = s.park)
    (hstate : (t.domain d).state = .consent ↔ (s.domain d).state = .consent) : t.ConsentSound := by
  refine h.congr (by rw [hpark]) (by rw [hpark]) fun e => ?_
  by_cases he : e = d
  · rw [he]; exact hstate
  · rw [hframe.domains e he]

theorem State.plan_not_consent (s : State) (d : DomainId) : ((s.plan d).domain d).state ≠ .consent := by
  rw [State.plan_domain]
  split_ifs <;> nofun

theorem State.ConsentSound.plan (h : s.ConsentSound) (hstate : (s.domain d).state ≠ .consent) :
    (s.plan d).ConsentSound :=
  h.unmoved (.plan s d) (s.plan_park d) (iff_of_false (s.plan_not_consent d) hstate)

/-- A domain whose request has ended, or that has left the channel, has left CONSENT for STEADY. -/
theorem State.ConsentSound.withdrawn (h : s.ConsentSound) : (s.withdrawn d).ConsentSound := by
  obtain ⟨hqueue, hrequest⟩ : (s.leaveConsent d).park.queue = s.park.queue.filter (fun e => e ∉ [d]) ∧
      (s.leaveConsent d).park.request = s.park.request.filter fun x => x.1 ∉ [d] := by
    simp only [State.leaveConsent, List.mem_singleton]
    refine ⟨trivial, ?_⟩
    cases s.park.request with
    | none => rfl
    | some x => by_cases hx : x.1 = d <;> simp [Option.filter, hx]
  have hleft : ((s.leaveConsent d).setDomain d { s.domain d with state := .steady }).ConsentSound := by
    refine h.leave hqueue hrequest fun e => ?_
    rw [State.setDomain_domain]
    split
    · next he => simp [he]
    · next he => simp [he]; rfl
  refine hleft.serve.congr ?_ ?_ fun e => ?_
  · rw [State.withdrawn, State.serveConsent_park]; exact congrArg Park.queue (s.leaveConsent d).serveConsent_park
  · rw [State.withdrawn, State.serveConsent_park]
    exact congrArg (fun p : Park => p.request.map Prod.fst) (s.leaveConsent d).serveConsent_park
  · rw [State.withdrawn, State.serveConsent_domain, State.setDomain_domain, State.setDomain_domain,
      State.serveConsent_domain]

/-! ### Acting on a resolution -/

theorem State.Runs.congr {c : Domain} (h : s.Runs d c) (hmove : s.DomainMove d t) : t.Runs d c :=
  ⟨h.toReady.congr hmove, h.gated, by rw [hmove.frame.railOf, hmove.frame.code, hmove.assured]; exact h.covered⟩

/-- A domain that leaves CONSENT plans from STEADY (R113). -/
theorem State.Runs.withdraw (h : s.Runs d (s.domain d)) (hnone : strict → s.NoneHeld d) :
    s.Moved strict d (s.withdraw d) := by
  have hmove := State.DomainMove.withdrawn s d
  rw [State.withdraw_eq_plan]
  refine hmove.moved (State.Runs.plan ?_ fun hq => (hnone hq).congr fun k => ?_)
  · rw [s.withdrawn_domain]
    exact State.Runs.congr ⟨⟨⟨h.idle.step, h.idle.lock, h.idle.gate, h.idle.cause⟩, h.current, h.target, h.free⟩, h.gated,
      h.covered⟩ hmove
  · rw [State.withdrawn, State.setDomain_record, State.serveConsent_record]
    rfl

theorem State.ConsentSound.withdraw (h : s.ConsentSound) : (s.withdraw d).ConsentSound := by
  rw [State.withdraw_eq_plan]
  exact h.withdrawn.plan (by rw [s.withdrawn_domain]; nofun)

/-- Another valid target leaves a controller fit where nothing depends on it. -/
theorem State.Fits.retarget {c : Domain} (h : s.Fits d c) {l : Level} (hl : (s.point d l).valid = true) (g : Governing)
    (hsame : c.state = .steady ∨ c.state = .raising → l = c.target) : s.Fits d { c with target := l, source := g } := by
  obtain ⟨hsettled, hsteady, hrest⟩ := h.moves
  exact ⟨h.current, hl, h.step, ⟨hsettled, fun hs => (hsteady hs).trans (hsame (.inl hs)).symm, hrest⟩, h.held, h.shut,
    h.inPlace, h.frozen, h.running, h.clock, fun hf hs => by rw [hsame (.inr hs)]; exact h.raising hf hs⟩

theorem State.ConsentSound.resolve (h : s.ConsentSound) : (s.resolve d).ConsentSound :=
  h.unmoved (.resolve s d) rfl (by rw [State.resolve_domain])

/-- A domain that acts on its resolution fits its state again, and the channel stays sound (R34, R68, R72, R77, R116,
R118). -/
theorem State.Fits.reresolve (h : s.Fits d (s.domain d)) (hsetup : s.SetupFits d)
    (hstatuses : strict → s.StatusesFit d) (hconsent : s.ConsentSound) :
    ∃ u, s.reresolve d = u.finish d ∧ s.Moved strict d u ∧ u.ConsentSound := by
  have hdomain := s.resolve_domain d
  have hvalid := s.resolution_valid d hsetup.zero
  have hmove := State.DomainMove.resolve s d
  have hnone (hfrozen : (s.domain d).state ≠ .frozen) (hoff : (s.domain d).state ≠ .off) (hq : strict) :
      (s.resolve d).NoneHeld d := (hstatuses hq).noneHeld hfrozen hoff
  have hsame : strict → (s.resolve d).StatusesFit d := fun hq =>
    (hstatuses hq).congr (by rw [hdomain]) fun k q hk hd => ⟨q, hk, hd, rfl⟩
  have hchannel := hconsent.resolve (d := d)
  obtain hs | ⟨hs, hwanted⟩ | ⟨hs, hwanted⟩ | ⟨hs, hwanted⟩ | hs | hs := s.resolution_cases d
  case inl =>
    have hstate : (s.domain d).state = .steady ∨ (s.domain d).state = .raising := hs.imp_right And.left
    have hruns := (h.runs (hstate.imp_right .inl)).retarget hvalid (s.resolution d).2
    refine ⟨_, State.reresolve_plans hs, hmove.moved (State.Runs.plan ?_ (hnone ?_ ?_)), hchannel.plan ?_⟩
    · rw [hdomain]; exact hruns.congr hmove
    all_goals obtain e | e := hstate <;> simp [hdomain, e]
  case inr.inl =>
    have hruns := (h.runs (.inr (.inr hs))).retarget hvalid (s.resolution d).2
    refine ⟨_, State.reresolve_withdraws hs hwanted, hmove.moved (State.Runs.withdraw ?_ (hnone (by simp [hs]) (by simp [hs]))),
      hchannel.withdraw⟩
    rw [hdomain]
    exact hruns.congr hmove
  case inr.inr.inl =>
    refine ⟨_, State.reresolve_evaluates hs hwanted, hmove.moved ⟨.evaluateParked _ d, ?_, fun _ => ?_, fun hq => ?_⟩,
      hchannel.unmoved (State.DomainMove.evaluateParked _ d).frame ((s.resolve d).evaluate_park d _) ?_⟩
    · rw [State.evaluateParked_domain, hdomain]
      exact hmove.fits.2 (h.retarget hvalid _ (by simp [hs]))
    · have hframe := (hmove.trans (.evaluateParked _ d)).frame
      rw [State.wanted, Bool.or_eq_false_iff] at hwanted
      rw [hframe.hasFloor, hframe.force]
      exact ⟨hwanted.1, by simpa using hwanted.2⟩
    · refine .of_judged (.inr (by rw [State.evaluateParked_domain, hdomain]; exact hs)) (State.forall_rewritten
        (P := fun r => r.status ≠ .held) (State.evaluateParked_record _ d) fun k r hr hd =>
        Record.evaluatedParked_not_held (hnone (by simp [hs]) (by simp [hs]) hq k r hr hd))
    · rw [State.evaluateParked_domain]
  case inr.inr.inr.inl =>
    have hready := (h.ready (.inr (.inr (.inr (.inl hs))))).retarget hvalid (s.resolution d).2
    refine ⟨_, State.reresolve_wakes hs hwanted, hmove.moved (State.Ready.beginWake ?_ ?_ (hnone ?_ ?_)),
      hchannel.unmoved (State.DomainMove.beginWake _ d).frame ((s.resolve d).beginWake_park d) ?_⟩
    · rw [hdomain]; exact hready.congr hmove
    · rw [hdomain]; exact h.moves.not_settled (by simp [hs])
    · simp [hs]
    · simp [hs]
    · rw [State.beginWake_domain, hdomain]; split <;> simp [hs]
  case inr.inr.inr.inr.inl =>
    have hready := (h.ready (.inr (.inr (.inr (.inr hs))))).retarget hvalid (s.resolution d).2
    refine ⟨_, State.reresolve_rail hs, hmove.moved (State.Ready.checkRailStage ?_ ?_ ?_ ?_ hsame),
      hchannel.unmoved (State.DomainMove.checkRailStage _ d).frame ((s.resolve d).checkRailStage_park d) ?_⟩
    · rw [hdomain]; exact hready.congr hmove
    · rw [hdomain]; exact hs
    · rw [hdomain]; exact h.moves.gated_eq (by rw [hs]; rfl)
    · rw [hdomain]; exact h.moves.not_settled (by simp [hs])
    · rw [State.checkRailStage_domain, hdomain]; split <;> simp [hs]
  case inr.inr.inr.inr.inr =>
    refine ⟨_, State.reresolve_stays hs, ⟨hmove, ?_, ?_, hsame⟩, hchannel⟩
    · rw [hdomain]
      refine h.retarget hvalid _ fun hstate => ?_
      obtain ⟨-, hsame⟩ | ⟨e, -⟩ | e := hs
      · exact hsame
      · simp [e] at hstate
      · obtain e | e | e | e | e | e := e <;> simp [e] at hstate
    · rw [State.ParkFits, hdomain]
      intro hparked
      obtain ⟨e, -⟩ | ⟨e, -⟩ | e := hs
      · simp [e] at hparked
      · simp [e] at hparked
      · obtain e | e | e | e | e | e := e <;> simp [e] at hparked

/-- A re-resolution of domain d restores the relations where they hold of all the others, and of d up to its target. -/
theorem State.Coherent.reresolve {fit closed : DomainId → Prop} {followed : RailId → Prop}
    (hs : s.Coherent strict fit closed followed) (hfit : ∀ e ≠ d, fit e) (hclosed : ∀ e ≠ d, closed e)
    (hfollowed : ∀ v ≠ s.railOf d, followed v) (h : s.Fits d (s.domain d)) (hstatuses : strict → s.StatusesFit d) :
    (s.reresolve d).Whole strict := by
  obtain ⟨u, hu, hmoved, hconsent⟩ := h.reresolve (hs.setups d) hstatuses hs.consent
  have hopen := hmoved.isOpen hs hfit hclosed hfollowed hconsent
  rw [hu]
  exact hopen.finish_whole

end Sys2Proof.Machine
end

section
/-! PROOFS. What a domain controller reads of the part when it re-resolves, and with that the reports and the edges of the
throttle lines, which several controllers take in an order that is free. -/

-- The proofs are elaborated one after another: side by side they would exceed the memory that the check allows.
set_option Elab.async false

namespace Sys2Proof.Machine

variable {s t u : State} {d : DomainId}

/-! ### Reports on their way -/

theorem takeReportOf_append {before after : List Report} {r : Report} (hbefore : ∀ q ∈ before, q.domain ≠ d)
    (hr : r.domain = d) : takeReportOf d (before ++ r :: after) = some (before ++ after) := by
  induction before with
  | nil => exact if_pos hr
  | cons q before ih =>
    have hq : q.domain ≠ d := hbefore q List.mem_cons_self
    rw [List.cons_append, takeReportOf, if_neg hq, ih fun x hx => hbefore x (List.mem_cons_of_mem _ hx)]
    rfl

theorem takeReportOf_eq_none {reports : List Report} (h : ∀ q ∈ reports, q.domain ≠ d) :
    takeReportOf d reports = none := by
  induction reports with
  | nil => rfl
  | cons q reports ih =>
    rw [takeReportOf, if_neg (h q List.mem_cons_self), ih fun x hx => h x (List.mem_cons_of_mem _ hx)]
    rfl

/-! ### What a re-resolution reads -/

/-- `u` agrees with `s` in all that the controller of domain d reads when it re-resolves. -/
structure State.Alike (d : DomainId) (s u : State) : Prop where
  setups : u.setups = s.setups
  domain : u.domain d = s.domain d
  levels : ∀ cls, u.levelsOn d cls = s.levelsOn d cls
  floor : u.hasFloor d = s.hasFloor d
  assured : u.assured (s.railOf d) = s.assured (s.railOf d)

theorem State.Alike.trans (h : s.Alike d t) (k : t.Alike d u) : s.Alike d u where
  setups := k.setups.trans h.setups
  domain := k.domain.trans h.domain
  levels cls := (k.levels cls).trans (h.levels cls)
  floor := k.floor.trans h.floor
  assured := by rw [← State.railOf_congr h.setups, k.assured, State.railOf_congr h.setups, h.assured]

theorem State.Alike.code (h : s.Alike d u) (l : Level) : u.code d l = s.code d l := State.code_congr h.setups d l

theorem State.Alike.wanted (h : s.Alike d u) : u.wanted d = s.wanted d := by
  rw [State.wanted, h.floor, h.domain]
  rfl

theorem State.Alike.resolution (h : s.Alike d u) : u.resolution d = s.resolution d := by
  have hpoint : (fun l => (u.point d l).valid) = fun l => (s.point d l).valid :=
    funext fun l => by rw [State.point_congr h.setups]
  simp only [State.resolution, State.base, State.effectiveCeiling, State.throttleAsserted, hpoint,
    State.config_congr h.setups, h.domain, h.levels]
  rfl

/-- Operations of domain d that leave it alike leave all that it reads alike. -/
theorem State.Alike.moves {s' u' : State} (h : s.Alike d u) (hs : s.DomainMove d s') (hu : u.DomainMove d u')
    (hdomain : u'.domain d = s'.domain d) : s'.Alike d u' where
  setups := by rw [hu.frame.setups, hs.frame.setups, h.setups]
  domain := hdomain
  levels cls := by rw [hu.frame.levelsOn, hs.frame.levelsOn, h.levels]
  floor := by rw [hu.frame.hasFloor, hs.frame.hasFloor, h.floor]
  assured := by rw [hs.frame.railOf, hu.assured, hs.assured, h.assured]

theorem State.Alike.resolve (h : s.Alike d u) : (s.resolve d).Alike d (u.resolve d) :=
  h.moves (.resolve s d) (.resolve u d) (by rw [State.resolve_domain, State.resolve_domain, h.domain, h.resolution])

theorem State.Alike.plan (h : s.Alike d u) : (s.plan d).Alike d (u.plan d) := by
  refine h.moves (.plan s d) (.plan u d) ?_
  rw [State.plan_domain, State.plan_domain, h.domain, State.railOf_congr h.setups, h.assured, h.code,
    State.point_congr h.setups]

theorem State.Alike.withdraw (h : s.Alike d u) : (s.withdraw d).Alike d (u.withdraw d) := by
  rw [State.withdraw_eq_plan, State.withdraw_eq_plan]
  exact (h.moves (.withdrawn s d) (.withdrawn u d) (by rw [State.withdrawn_domain, State.withdrawn_domain, h.domain])).plan

theorem State.Alike.evaluateParked (h : s.Alike d u) : (s.evaluateParked d).Alike d (u.evaluateParked d) :=
  h.moves (.evaluateParked s d) (.evaluateParked u d)
    (by rw [State.evaluateParked_domain, State.evaluateParked_domain, h.domain])

theorem State.Alike.checkRailStage (h : s.Alike d u) : (s.checkRailStage d).Alike d (u.checkRailStage d) := by
  refine h.moves (.checkRailStage s d) (.checkRailStage u d) ?_
  rw [State.checkRailStage_domain, State.checkRailStage_domain, h.domain, State.railOf_congr h.setups, h.assured, h.code,
    State.config_congr h.setups]

theorem State.Alike.beginWake (h : s.Alike d u) : (s.beginWake d).Alike d (u.beginWake d) := by
  refine h.moves (.beginWake s d) (.beginWake u d) ?_
  rw [State.beginWake_domain, State.beginWake_domain, h.domain, State.railOf_congr h.setups, h.assured, h.code,
    State.config_congr h.setups]

/-- The end of an event leaves such a domain alike. -/
theorem State.Alike.finish_domain (h : s.Alike d u) : (u.finish d).domain d = (s.finish d).domain d := by
  have hneed : u.needOf d = s.needOf d := by simp only [State.needOf, h.domain, h.code]
  have hquiet : u.quietAfter d = s.quietAfter d := by
    simp only [State.quietAfter, State.quiet, h.domain, h.floor, State.config_congr h.setups]
    rfl
  rw [State.finish_domain, State.finish_domain, h.domain, hneed, hquiet]

theorem State.Alike.reresolve_domain (h : s.Alike d u) : (u.reresolve d).domain d = (s.reresolve d).domain d := by
  have hr := h.resolve
  have hstays (hs : s.StaysOnResolution d) : u.StaysOnResolution d := by
    rw [State.StaysOnResolution, h.domain, h.resolution, h.wanted]; exact hs
  obtain hs | ⟨hs, hw⟩ | ⟨hs, hw⟩ | ⟨hs, hw⟩ | hs | hs := s.resolution_cases d
  · rw [State.reresolve_plans hs, State.reresolve_plans (by rw [h.domain, h.resolution]; exact hs)]
    exact hr.plan.finish_domain
  · rw [State.reresolve_withdraws hs hw, State.reresolve_withdraws (by rw [h.domain]; exact hs) (h.wanted.trans hw)]
    exact hr.withdraw.finish_domain
  · rw [State.reresolve_evaluates hs hw, State.reresolve_evaluates (by rw [h.domain]; exact hs) (h.wanted.trans hw)]
    exact hr.evaluateParked.finish_domain
  · rw [State.reresolve_wakes hs hw, State.reresolve_wakes (by rw [h.domain]; exact hs) (h.wanted.trans hw)]
    exact hr.beginWake.finish_domain
  · rw [State.reresolve_rail hs, State.reresolve_rail (by rw [h.domain]; exact hs)]
    exact hr.checkRailStage.finish_domain
  · rw [State.reresolve_stays hs, State.reresolve_stays (hstays hs)]
    exact hr.finish_domain

/-! ### Other controllers beside -/

theorem State.reevaluate_assured (s : State) (v w : RailId) : (s.reevaluate v).assured w = s.assured w :=
  (s.reevaluate_similar v w).assured

theorem State.finish_assured (s : State) (d : DomainId) (v : RailId) : (s.finish d).assured v = s.assured v :=
  ((s.closeDomain d).reevaluate_assured _ v).trans ((State.DomainMove.closeDomain s d).assured v)

theorem State.reresolve_assured (s : State) (d : DomainId) (v : RailId) : (s.reresolve d).assured v = s.assured v :=
  (State.finish_assured _ d v).trans (((State.DomainMove.resolve s d).trans (.act _ d _)).assured v)

/-- What the frame of one domain leaves alike for another. -/
theorem State.DomainFrame.alike {e : DomainId} (h : s.DomainFrame e t) (hd : d ≠ e)
    (hassured : ∀ v, t.assured v = s.assured v) : s.Alike d t :=
  ⟨h.setups, h.domains d hd, h.levelsOn d, h.hasFloor d, hassured _⟩

theorem State.Alike.refl (d : DomainId) (s : State) : s.Alike d s := ⟨rfl, rfl, fun _ => rfl, rfl, rfl⟩

/-! ### The edges of the throttle lines -/

theorem State.inFreeOrder_perm (s : State) (ds : List DomainId) (hnodup : ds.Nodup) :
    (s.inFreeOrder ds).1.Nodup ∧ (∀ d, d ∈ (s.inFreeOrder ds).1 ↔ d ∈ ds) ∧
      ∃ choices, (s.inFreeOrder ds).2 = { s with choices := choices } := by
  unfold State.inFreeOrder
  split
  · exact ⟨hnodup, fun _ => .rfl, s.choices, rfl⟩
  · refine ⟨?_, fun d => ?_, _, rfl⟩
    · refine (List.nodup_dedup _).append (hnodup.filter _) fun d hd hrest => ?_
      simp only [List.mem_dedup, List.mem_filter, decide_eq_true_eq] at hd hrest
      exact hrest.2 hd.1
    · simp only [arrange, List.mem_append, List.mem_dedup, List.mem_filter, decide_eq_true_eq]
      exact ⟨fun h => h.elim And.right And.left, fun hd => (em (d ∈ Config.domainOrder s.choices)).imp
        (fun h => ⟨h, hd⟩) fun h => ⟨hd, h⟩⟩

/-- The edge as one controller takes it. -/
theorem State.takeEdge_alike (s : State) (level : Bool) {e : DomainId} (hd : d ≠ e) : s.Alike d (s.takeEdge level e) := by
  have hset : s.Alike d (s.setDomain e { s.domain e with throttled := level }) :=
    ⟨rfl, (s.setDomain_domain e d _).trans (if_neg hd), fun _ => rfl, rfl, rfl⟩
  exact hset.trans ((State.DomainFrame.reresolve _ e).alike hd fun v => State.reresolve_assured _ e v)

theorem State.Alike.takeEdge (h : s.Alike d u) (level : Bool) :
    (u.takeEdge level d).domain d = (s.takeEdge level d).domain d := by
  have hset : (s.setDomain d { s.domain d with throttled := level }).Alike d
      (u.setDomain d { u.domain d with throttled := level }) :=
    ⟨h.setups, by rw [State.setDomain_domain_self, State.setDomain_domain_self, h.domain], h.levels, h.floor, h.assured⟩
  exact hset.reresolve_domain

theorem State.takeEdges_rest (s : State) (level : Bool) (es : List DomainId) :
    (es.foldl (State.takeEdge level) s).pins = s.pins ∧ (es.foldl (State.takeEdge level) s).setups = s.setups := by
  induction es generalizing s with
  | nil => exact ⟨rfl, rfl⟩
  | cons e es ih =>
    have hframe := State.DomainFrame.reresolve (s.setDomain e { s.domain e with throttled := level }) e
    obtain ⟨hpins, hsetups⟩ := ih (s.takeEdge level e)
    exact ⟨hpins.trans hframe.pins, hsetups.trans hframe.setups⟩

/-- A controller that does not follow the line is not reached. -/
theorem State.takeEdges_alike (s : State) (level : Bool) {es : List DomainId} (hd : d ∉ es) :
    s.Alike d (es.foldl (State.takeEdge level) s) := by
  induction es generalizing s with
  | nil => exact .refl d s
  | cons e es ih =>
    obtain ⟨hne, hes⟩ := not_or.1 (mt List.mem_cons.2 hd)
    exact (s.takeEdge_alike level hne).trans (ih _ hes)

/-- One that follows it takes the edge in its turn. -/
theorem State.takeEdges_turn (s : State) (level : Bool) {es : List DomainId} (hnodup : es.Nodup) (hd : d ∈ es) :
    ∃ u, s.Alike d u ∧ (u.takeEdge level d).Alike d (es.foldl (State.takeEdge level) s) := by
  induction es generalizing s with
  | nil => cases hd
  | cons e es ih =>
    obtain ⟨he, hnodup⟩ := List.nodup_cons.1 hnodup
    obtain rfl | hes := List.mem_cons.1 hd
    · exact ⟨s, .refl d s, State.takeEdges_alike _ level he⟩
    · have hne : d ≠ e := fun h => he (h ▸ hes)
      obtain ⟨u, hu, hafter⟩ := ih (s.takeEdge level e) hnodup hes
      exact ⟨u, (s.takeEdge_alike level hne).trans hu, hafter⟩

theorem State.setThr_thr (s : State) (line other : ThrottleLine) (level : Bool) :
    (s.setThr line level).thr other = if other = line then level else s.thr other := by
  cases line <;> cases other <;> rfl

theorem State.setThr_pins (s : State) (line : ThrottleLine) (level : Bool) :
    (s.setThr line level).pins.pg = s.pins.pg ∧ (s.setThr line level).pins.cgrant = s.pins.cgrant ∧
      (s.setThr line level).pins.cdeny = s.pins.cdeny := by
  cases line <;> exact ⟨rfl, rfl, rfl⟩

theorem State.setThr_alike (s : State) (d : DomainId) (line : ThrottleLine) (level : Bool) (choices : Nat) :
    s.Alike d { s.setThr line level with choices := choices } := by
  cases line <;> exact ⟨rfl, rfl, fun _ => rfl, rfl, rfl⟩

theorem State.thr_congr (h : t.pins = s.pins) (line : ThrottleLine) : t.thr line = s.thr line := by
  cases line <;> simp only [State.thr, h]

theorem exec_recordReport (d : DomainId) (s : State) : exec (.recordReport d) s = execRecordReport d s := rfl

theorem exec_throttleEdge (line : ThrottleLine) (rising : Bool) (s : State) :
    exec (.throttleEdge line rising) s = execThrottleEdge line rising s := rfl

/-- The domains that follow a line. -/
def State.followers (s : State) (line : ThrottleLine) : List DomainId :=
  allDomains.filter fun d => (s.config d).throttleLine = some line

theorem State.mem_followers {line : ThrottleLine} : d ∈ s.followers line ↔ (s.config d).throttleLine = some line := by
  simp [State.followers, allDomains]

/-- An edge is taken by the followers one after another, in some order. -/
theorem execThrottleEdge_eq {line : ThrottleLine} {rising : Bool} (hedge : s.thr line ≠ rising) : ∃ (es : List DomainId) (choices : Nat),
    es.Nodup ∧ (∀ d, d ∈ es ↔ (s.config d).throttleLine = some line) ∧
    exec (.throttleEdge line rising) s =
      .next (es.foldl (State.takeEdge rising) { s.setThr line rising with choices := choices }) := by
  have hsetups : (s.setThr line rising).setups = s.setups := by cases line <;> rfl
  obtain ⟨hnodup, hmem, choices, hstate⟩ := (s.setThr line rising).inFreeOrder_perm
    ((s.setThr line rising).followers line) ((List.nodup_finRange 12).filter _)
  refine ⟨_, choices, hnodup, fun d => ?_, ?_⟩
  · rw [hmem, State.mem_followers, State.config_congr hsetups]
  · rw [← hstate, exec_throttleEdge, execThrottleEdge, if_neg hedge]
    rfl

end Sys2Proof.Machine

/-! ### The statements -/

namespace Sys2Proof.Domains

open Sys2Proof.Machine

/-- Settles O38: each follower takes the edge in its turn, and what the others do then and before is nothing it reads. -/
theorem reportsAndThrottleEdgesResolve : Obligations.ReportsAndThrottleEdgesResolve := by
  intro s
  refine ⟨fun d before r after hreports hbefore hr => ?report, fun d hnone => ?none, fun line rising hedge => ?edge⟩
  case report => rw [exec_recordReport, execRecordReport, hreports, takeReportOf_append hbefore hr]
  case none => rw [exec_recordReport, execRecordReport, takeReportOf_eq_none hnone]
  case edge =>
    obtain ⟨es, choices, hnodup, hmem, hexec⟩ := execThrottleEdge_eq hedge
    have hstart (d : DomainId) := s.setThr_alike d line rising choices
    obtain ⟨hpins, hsetups⟩ := State.takeEdges_rest { s.setThr line rising with choices := choices } rising es
    obtain ⟨hpg, hgrant, hdeny⟩ := s.setThr_pins line rising
    have hthr (other : ThrottleLine) : (es.foldl (State.takeEdge rising) { s.setThr line rising with
        choices := choices }).thr other = if other = line then rising else s.thr other := by
      rw [← State.setThr_thr]
      exact (State.thr_congr hpins other).trans (by cases other <;> rfl)
    refine ⟨_, hexec, by rw [hthr, if_pos rfl], fun other hne => by rw [hthr, if_neg hne], ?_, ?_, ?_, ?_,
      fun d hd => ?others, fun d hd => ?follower⟩
    · rw [hpins]; exact hpg
    · rw [hpins]; exact hgrant
    · rw [hpins]; exact hdeny
    · rw [hsetups]; exact (hstart 0).setups
    case others =>
      exact ((hstart d).trans (State.takeEdges_alike _ rising (mt (hmem d).1 hd))).domain
    case follower =>
      obtain ⟨u, hu, hafter⟩ := State.takeEdges_turn { s.setThr line rising with choices := choices } rising hnodup
        ((hmem d).2 hd)
      obtain ⟨htarget, hsource, -, -, hresolution, -, hframe⟩ :=
        Resolution.resolvingTouchesOneDomain (u.setDomain d { u.domain d with throttled := rising }) d
      obtain ⟨hforce, hthrottled⟩ := hframe.inputs
      rw [State.setDomain_domain_self] at hforce hthrottled
      have hsame : s.Alike d u := (hstart d).trans hu
      rw [hafter.domain, hafter.resolution]
      refine ⟨hsame.takeEdge rising, hthrottled, ?_, ?_, ?_⟩
      · rw [← hsame.domain]; exact hforce
      · exact htarget.trans (congrArg Prod.fst hresolution.symm)
      · exact hsource.trans (congrArg Prod.snd hresolution.symm)

end Sys2Proof.Domains
end

section
/-! PROOFS. What ends a step, or a wait for the rail: LOCK, the lock timers and a change of the assured code. -/

-- The proofs are elaborated one after another: side by side they would exceed the memory that the check allows.
set_option Elab.async false

namespace Sys2Proof.Machine

variable {s t u : State} {d : DomainId} {v : RailId}

/-! ### The end of an event and the check of a rail in FALLBACK leave most as it was -/

theorem State.finish_eq (s : State) (d : DomainId) : s.finish d = { s with
    domains := (s.finish d).domains, rails := (s.finish d).rails
    link := { s.link with elected := (s.finish d).link.elected } } := by
  rw [State.finish, State.reevaluate_eq, State.closeDomain_eq]
  rfl

theorem State.finish_similar (s : State) (d : DomainId) (w : RailId) : (s.rail w).Similar ((s.finish d).rail w) :=
  (s.closeDomain d).reevaluate_similar _ w

theorem State.fallbackCheck_frame (s : State) (v : RailId) : s.fallbackCheck v = { s with
    rails := (s.fallbackCheck v).rails, link := { s.link with elected := (s.fallbackCheck v).link.elected } } := by
  rw [State.fallbackCheck_eq]
  split
  · rw [State.chooseRail_eq]; rfl
  · rfl

@[simp] theorem State.fallbackCheck_domain (s : State) (v : RailId) (e : DomainId) :
    (s.fallbackCheck v).domain e = s.domain e := by
  rw [State.fallbackCheck_frame]; rfl

theorem State.DomainFrame.fallbackCheck (s : State) (d : DomainId) : s.DomainFrame d (s.fallbackCheck (s.railOf d)) := by
  rw [State.fallbackCheck_eq]
  split
  · next h =>
    exact (State.DomainFrame.setRail s d _ _ (s.rail (s.railOf d)).state fun code tries phase hout =>
      nomatch hout.symm.trans h.2.1).trans (.chooseRail _ d)
  · exact .refl d s

/-- An event of one domain that its rail has taken leaves a rail in FALLBACK for the check to look at. -/
theorem State.FallbackFollows.of_similar (h : u.FallbackFollows t v) (hrail : (s.rail v).Similar (u.rail v))
    (hsetups : u.setups = s.setups) : s.FallbackFollows t v := by
  intro hstate
  have hfaulted : (s.rail v).faulted = true := by simp [Rail.faulted, hstate]
  obtain ⟨hafter, hcommand⟩ := h (hrail.falling.2 hstate)
  refine ⟨hafter, fun hnone => ?_⟩
  rw [hrail.command hfaulted, hrail.fallback] at hcommand
  simp only [State.railOf_congr hsetups] at hcommand
  convert hcommand hnone

/-! ### A step completed (R71, R75, R120) -/

/-- The domain back in STEADY at the level that its step has brought. -/
def State.stepped (s : State) (d : DomainId) (level : Level) : State :=
  s.setDomain d { s.domain d with state := .steady, current := level, step := none, lockTimer := none }

theorem State.stepped_domain (s : State) (d : DomainId) (l : Level) : (s.stepped d l).domain d =
    { s.domain d with state := .steady, current := l, step := none, lockTimer := none } := State.setDomain_domain_self ..

theorem State.DomainMove.stepped (s : State) (d : DomainId) (l : Level) : s.DomainMove d (s.stepped d l) :=
  .setDomain s d rfl rfl

theorem State.stepped_plansAlike {l : Level} (hstate : (s.domain d).state ≠ .frozen) : s.PlansAlike d (s.stepped d l) where
  records := rfl
  boxes := rfl
  point _ := rfl
  assured := rfl
  quietTimer := by rw [State.stepped_domain]
  frozen := by rw [State.stepped_domain]; simp [hstate]

theorem State.lockTaken_steps {l : Level} (h : (s.domain d).state = .stepping ∨ (s.domain d).state = .waking .clock) :
    s.lockTaken d l = ((s.stepped d l).plan d).finish d := by
  have hset : (s.completeStep d l).setDomain d { (s.completeStep d l).domain d with state := .steady } = s.stepped d l := by
    rw [State.completeStep, State.setDomain_domain_self, State.setDomain_setDomain, State.stepped]
  dsimp only [State.lockTaken]
  obtain h | h := h <;> simp only [h, hset]

theorem State.lockTaken_freezes {l : Level} (h : (s.domain d).state = .frozen) :
    s.lockTaken d l = ((s.completeStep d l).finish d).fallbackCheck (s.railOf d) := by
  dsimp only [State.lockTaken]
  simp only [h]
  rfl

theorem exec_lockRise (d : DomainId) (s : State) : exec (.lockRise d) s = execLockRise d s := rfl

theorem exec_lockTimeout (d : DomainId) (s : State) : exec (.lockTimeout d) s = execLockTimeout d s := rfl

theorem exec_freezingLockTimeout (d : DomainId) (s : State) :
    exec (.freezingLockTimeout d) s = execFreezingLockTimeout d s := rfl

theorem exec_assuredCodeChange (d : DomainId) (s : State) :
    exec (.assuredCodeChange d) s = execAssuredCodeChange d s := rfl

theorem execLockRise_ignored (h : (s.domain d).step = none ∨ (s.domain d).strobe ≠ none) :
    execLockRise d s = .next s := by
  unfold execLockRise
  split
  · rfl
  · next hstep => exact if_neg (h.resolve_left (by rw [hstep]; nofun))

theorem execLockRise_taken {l : Level} (hstep : (s.domain d).step = some l) (hstrobe : (s.domain d).strobe = none) :
    execLockRise d s = .next (s.lockTaken d l) := by
  simp only [execLockRise, hstep, hstrobe, if_true]

/-- A step in flight is an ordinary one, that of a wake, or a freezing one (R69, R120, R127). -/
theorem Domain.MovesSound.step_states {c : Domain} (h : c.MovesSound) (hstep : c.step ≠ none) :
    c.state = .stepping ∨ c.state = .waking .clock ∨ (c.state = .frozen ∧ c.gated = false) := h.2.2.2.2.1 hstep

theorem Domain.MovesSound.lockTimer_states {c : Domain} (h : c.MovesSound) (hlock : c.lockTimer ≠ none) :
    c.step ≠ none ∧ c.strobe = none := h.2.2.2.2.2.1 hlock

/-- A completed ordinary step leads where a plan from the new level does. -/
theorem State.stepped_finish {l : Level} (h : (s.domain d).state = .stepping ∨ (s.domain d).state = .waking .clock) :
    s.PlansTo (((s.stepped d l).plan d).finish d) d l (s.domain d).target ∧
    s.Told (((s.stepped d l).plan d).finish d) (s.planNotices d l (s.domain d).target) ∧
    ((s.domain d).target = l → ((((s.stepped d l).plan d).finish d).domain d).step = none) := by
  have hdomain := s.stepped_domain d l
  have halike : s.PlansAlike d (s.stepped d l) := State.stepped_plansAlike (by obtain h | h := h <;> simp [h])
  have hplans := State.plan_finish_plansTo (s := s.stepped d l) (d := d) (by rw [hdomain]; nofun)
  have htold := (s.stepped d l).plan_finish_told d
  rw [hdomain] at hplans htold
  rw [halike.planNotices] at htold
  refine ⟨halike.plansTo hplans, halike.told htold, fun hsame => ?_⟩
  rw [State.finish_domain, State.plan_domain, hdomain, if_pos hsame]

/-! ### A lock timeout (R73, R127) -/

/-- The domain as a lock timeout leaves it (R73, R127). -/
def Domain.timedOut (c : Domain) (cause : DomainCause) : Domain := { c with
  state := .frozen, settled := false, step := none, lockTimer := none, quietTimer := none, cause := cause, gated := true }

theorem State.freezeAfterTimeout_eq (s : State) (d : DomainId) (cause : DomainCause) :
    s.freezeAfterTimeout d cause = s.setDomain d ((s.domain d).timedOut cause) := rfl

/-- At the end of an event, a timed-out domain has neither a need nor a quiet timer. -/
theorem State.finish_timedOut {cause : DomainCause} (h : s.domain d = (t.domain d).timedOut cause) :
    (s.finish d).domain d = { (t.domain d).timedOut cause with need := none } := by
  have hquiet : s.quietAfter d = none := State.quietAfter_of_not_settled (by rw [h]; rfl)
  have hneed : s.needOf d = none := by simp only [State.needOf, h]; rfl
  rw [State.finish_domain, hquiet, hneed, h]
  rfl

/-- The state of a CLOCK fault before the end of its event: gated, with its notices raised and its records HELD. -/
def State.clockFaulted (s : State) (d : DomainId) : State :=
  { ((s.setDomain d ((s.domain d).timedOut .clock)).holdRecords d) with
    raised := s.raised ++ [(supervisor, .clockFault d) :: s.heldNotices d] }

/-- DOMAIN_HELD goes to each port with a record on the domain, in ascending order (R39). -/
theorem State.heldNotices_eq (s : State) (d : DomainId) : s.heldNotices d =
    ((List.finRange 9).filter fun p => s.live.any fun x => x.2.domain = d ∧ x.2.owner = p).map
      fun p => (p, Notice.domainHeld d) := by
  simp only [State.heldNotices, State.ownersOn, allPorts, Bool.decide_and]

/-- Holding the records changes no owner. -/
theorem State.holdRecords_heldNotices (s : State) (d e : DomainId) : (s.holdRecords d).heldNotices e = s.heldNotices e := by
  have hlive := State.live_map_congr (fun r : Record => (r.domain, r.owner)) (s := s) (t := s.holdRecords d) fun k => by
    rw [State.holdRecords, State.mapRecordsOn_record, Option.map_map]
    congr 1
    funext r
    simp only [Function.comp]
    split <;> rfl
  have hany (p : PortId) (u : State) : (u.live.any fun x => x.2.domain = e && x.2.owner = p) =
      (u.live.map fun x => (x.1, (x.2.domain, x.2.owner))).any fun x => x.2.1 = e && x.2.2 = p := by
    rw [List.any_map]
    rfl
  simp only [State.heldNotices, State.ownersOn, hany, hlive]

theorem execLockTimeout_faults (hlock : (s.domain d).lockTimer ≠ none)
    (hstate : (s.domain d).state = .stepping ∨ (s.domain d).state = .waking .clock) :
    execLockTimeout d s = .next ((s.clockFaulted d).finish d) := by
  refine (if_pos ⟨Option.isSome_iff_ne_none.2 hlock, hstate⟩).trans ?_
  rw [State.raise_eq, State.holdRecords_heldNotices]
  rfl

/-- The state after a freezing lock timeout, before the end of its event. -/
def State.freezingTimedOut (s : State) (d : DomainId) : State :=
  { s.setDomain d ((s.domain d).timedOut (s.domain d).cause) with raised := s.raised ++ [[(supervisor, .clockFault d)]] }

theorem execFreezingLockTimeout_gates (hlock : (s.domain d).lockTimer ≠ none) (hstate : (s.domain d).state = .frozen)
    (hstep : (s.domain d).step ≠ none) :
    execFreezingLockTimeout d s = .next (((s.freezingTimedOut d).finish d).fallbackCheck (s.railOf d)) :=
  if_pos ⟨Option.isSome_iff_ne_none.2 hlock, hstate, Option.isSome_iff_ne_none.2 hstep⟩

theorem State.DomainFrame.clockFaulted (s : State) (d : DomainId) :
    State.DomainFrame d { s with raised := (s.clockFaulted d).raised } (s.clockFaulted d) :=
  (State.DomainFrame.setDomain { s with raised := (s.clockFaulted d).raised } (c := (s.domain d).timedOut .clock) rfl
    rfl).trans (.holdRecords _ d)

theorem State.DomainFrame.freezingTimedOut (s : State) (d : DomainId) :
    State.DomainFrame d { s with raised := (s.freezingTimedOut d).raised } (s.freezingTimedOut d) :=
  .setDomain { s with raised := (s.freezingTimedOut d).raised } (c := (s.domain d).timedOut (s.domain d).cause) rfl rfl

/-! ### A change of the assured code (R67, R83) -/

/-- The state in which the controller has taken the news of its rail. -/
def State.newsTaken (s : State) (d : DomainId) : State := s.setDomain d { s.domain d with assuredNews := false }

theorem State.newsTaken_domain (s : State) (d : DomainId) :
    (s.newsTaken d).domain d = { s.domain d with assuredNews := false } := State.setDomain_domain_self ..

theorem State.DomainMove.newsTaken (s : State) (d : DomainId) : s.DomainMove d (s.newsTaken d) := .setDomain s d rfl rfl

theorem State.newsTaken_state (s : State) (d : DomainId) : ((s.newsTaken d).domain d).state = (s.domain d).state := by
  rw [State.newsTaken_domain]

section News
variable (hnews : (s.domain d).assuredNews = true)
include hnews

theorem execAssuredCodeChange_rail (hstate : (s.domain d).state = .waking .rail) :
    execAssuredCodeChange d s = .next (((s.newsTaken d).checkRailStage d).finish d) := by
  have hkept := (s.newsTaken_state d).trans hstate
  refine (if_pos hnews).trans ?_
  dsimp only
  split
  · next h => exact nomatch h.symm.trans hkept
  · rfl
  · next h => exact absurd hkept h

theorem execAssuredCodeChange_raising (hstate : (s.domain d).state = .raising)
    (hcover : s.code d (s.domain d).target ≤ s.assured (s.railOf d)) :
    execAssuredCodeChange d s =
      .next (((s.newsTaken d).startStep d .stepping (s.domain d).target).finish d) := by
  have hkept := (s.newsTaken_state d).trans hstate
  have htarget : ((s.newsTaken d).domain d).target = (s.domain d).target := by rw [State.newsTaken_domain]
  have hcovered : (s.newsTaken d).code d ((s.newsTaken d).domain d).target ≤ (s.newsTaken d).assured ((s.newsTaken d).railOf d) := by
    rw [htarget]; exact hcover
  refine (if_pos hnews).trans ?_
  dsimp only
  split
  · exact (congrArg Host.Outcome.next (if_pos hcovered)).trans
      (congrArg (fun l => Host.Outcome.next (((s.newsTaken d).startStep d .stepping l).finish d)) htarget)
  · next h => exact nomatch h.symm.trans hkept
  · next h _ => exact absurd hkept h

theorem execAssuredCodeChange_other (hraising : ¬((s.domain d).state = .raising ∧
      s.code d (s.domain d).target ≤ s.assured (s.railOf d))) (hrail : (s.domain d).state ≠ .waking .rail) :
    execAssuredCodeChange d s = .next (s.newsTaken d) := by
  have hkept := s.newsTaken_state d
  have htarget : ((s.newsTaken d).domain d).target = (s.domain d).target := by rw [State.newsTaken_domain]
  refine (if_pos hnews).trans ?_
  dsimp only
  split
  · next h =>
    refine congrArg Host.Outcome.next (if_neg fun hcover => hraising ⟨hkept.symm.trans h, ?_⟩)
    rw [← htarget]
    exact hcover
  · next h => exact absurd (hkept.symm.trans h) hrail
  · rfl

end News

/-- What a step that starts at the end of an event leaves of its domain. -/
theorem State.startStep_finish_domain (s : State) (d : DomainId) (l : Level)
    (hsettled : (s.domain d).settled = false) :
    ((s.startStep d .stepping l).finish d).domain d = { s.domain d with
      state := .stepping, step := some l, strobe := some (.step (s.point d l).clock), lockTimer := none
      quietTimer := none, need := some (higherCode (s.code d (s.domain d).current) (s.code d l)) } := by
  have hdomain : (s.startStep d .stepping l).domain d = { s.domain d with
      state := .stepping, step := some l, strobe := some (.step (s.point d l).clock), lockTimer := none } :=
    State.setDomain_domain_self ..
  have hneed : (s.startStep d .stepping l).needOf d =
      some (higherCode (s.code d (s.domain d).current) (s.code d l)) := by
    simp only [State.needOf, hdomain]
    rfl
  rw [State.finish_domain, State.quietAfter_of_not_settled (by rw [hdomain]; exact hsettled), hneed, hdomain]

end Sys2Proof.Machine

/-! ### The statements -/

namespace Sys2Proof.Domains

open Sys2Proof.Machine

/-- Settles O40, by the kind of step that LOCK completes. -/
theorem lockCompletesTheStep : Obligations.LockCompletesTheStep := by
  intro s d hmoves
  rw [exec_lockRise]
  refine ⟨execLockRise_ignored, fun l hstep hstrobe => ?_⟩
  rw [execLockRise_taken hstep hstrobe]
  obtain hstate | hfrozen : ((s.domain d).state = .stepping ∨ (s.domain d).state = .waking .clock) ∨
      ((s.domain d).state = .frozen ∧ (s.domain d).gated = false) :=
    or_assoc.2 ((hmoves d).1.step_states (by rw [hstep]; nofun))
  case inl =>
    have hunmoved := (s.stepped d l).plan_unmoved d
    rw [State.stepped_domain] at hunmoved
    refine ⟨_, by rw [State.lockTaken_steps hstate],
      ((State.DomainMove.stepped s d l).trans (.plan _ d)).frame.trans (.finish _ d), ?_, ?_, ?_,
      fun _ => State.stepped_finish hstate, fun hfrozen => ?_, ?_⟩
    · rw [State.finish_domain]; exact hunmoved.current
    · rw [State.finish_domain]; exact hunmoved.target
    · rw [State.finish_domain, State.plan_domain, State.stepped_domain]
      split_ifs <;> rfl
    · obtain e | e := hstate <;> simp [e] at hfrozen
    · rw [State.finish_park, State.plan_park]; rfl
  case inr =>
    obtain ⟨hstate, hgated⟩ := hfrozen
    have hdomain : (((s.completeStep d l).finish d).fallbackCheck (s.railOf d)).domain d = { s.domain d with
        current := l, step := none, lockTimer := none
        quietTimer := (s.completeStep d l).quietAfter d, need := (s.completeStep d l).needOf d } := by
      rw [State.fallbackCheck_domain, State.finish_domain, State.completeStep, State.setDomain_domain_self]
    have hneed : (s.completeStep d l).needOf d = some (s.code d l) := by
      simp only [State.needOf, State.completeStep, State.setDomain_domain_self, hstate, hgated]
      rfl
    have hframe := (State.DomainMove.completeStep s d l).frame.trans (.finish _ d)
    have hrailOf : ((s.completeStep d l).finish d).railOf d = s.railOf d := hframe.railOf d
    refine ⟨_, by rw [State.lockTaken_freezes hstate],
      hframe.trans (hrailOf ▸ State.DomainFrame.fallbackCheck _ d), ?_, ?_, ?_, fun h => ?_, fun _ => ⟨?_, ?_, ?_, ?_, ?_, ?_, ?_⟩,
      ?_⟩
    · rw [hdomain]
    · rw [hdomain]
    · rw [hdomain]
    · obtain e | e := h <;> simp [e] at hstate
    · rw [hdomain]; exact hstate
    · rw [hdomain]; exact hgated
    · rw [hdomain]
    · rw [hdomain]; exact hneed
    · rw [State.fallbackCheck_frame, State.finish_eq]; rfl
    · rw [State.fallbackCheck_frame, State.finish_eq]; rfl
    · exact (State.fallbackCheck_follows _ _).of_similar (State.finish_similar (s.completeStep d l) d _) hframe.setups
    · rw [State.fallbackCheck_frame, State.finish_eq]; rfl

/-- Settles O41, for the two kinds of step whose lock timer runs out. -/
theorem lockTimeoutsGateTheDomain : Obligations.LockTimeoutsGateTheDomain := by
  intro s d hlock
  dsimp only
  refine ⟨fun hstate => ?ordinary, fun hstate hstep => ?freezing⟩
  case ordinary =>
    have hdomain : ((s.clockFaulted d).finish d).domain d = { (s.domain d).timedOut .clock with need := none } :=
      State.finish_timedOut (t := s) (State.setDomain_domain_self ..)
    have hrest := (s.clockFaulted d).finish_eq d
    refine ⟨_, by rw [exec_lockTimeout, execLockTimeout_faults hlock hstate], ?_, by rw [hdomain]; rfl, ?_, by rw [hrest]; rfl,
      fun h r hr hd => ?_, by rw [hrest, ← State.heldNotices_eq]; rfl⟩
    · rw [hdomain]; exact ⟨rfl, rfl, rfl, rfl, rfl, rfl, rfl, rfl, rfl⟩
    · have hraised : ((s.clockFaulted d).finish d).raised = (s.clockFaulted d).raised := by rw [hrest]
      rw [hraised]
      exact (State.DomainFrame.clockFaulted s d).trans (.finish _ d)
    · rw [State.finish_record]
      exact ((s.mapRecordsOn_record d _ h).trans (congrArg (Option.map _) hr)).trans (congrArg some (if_pos hd))
  case freezing =>
    have hdomain : (((s.freezingTimedOut d).finish d).fallbackCheck (s.railOf d)).domain d =
        { (s.domain d).timedOut (s.domain d).cause with need := none } := by
      rw [State.fallbackCheck_domain]
      exact State.finish_timedOut (t := s) (State.setDomain_domain_self ..)
    have hrest : ∃ domains rails link, ((s.freezingTimedOut d).finish d).fallbackCheck (s.railOf d) =
        { s.freezingTimedOut d with domains := domains, rails := rails, link := link } := by
      rw [State.fallbackCheck_frame, State.finish_eq]
      exact ⟨_, _, _, rfl⟩
    have hframe := (State.DomainFrame.freezingTimedOut s d).trans (.finish _ d)
    obtain ⟨domains, rails, link, hrest⟩ := hrest
    have hraised : (((s.freezingTimedOut d).finish d).fallbackCheck (s.railOf d)).raised = (s.freezingTimedOut d).raised := by
      rw [hrest]
    refine ⟨_, by rw [exec_freezingLockTimeout, execFreezingLockTimeout_gates hlock hstate hstep], ?_,
      by rw [hdomain]; rfl, ?_, by rw [hrest]; rfl, by rw [hrest]; rfl, by rw [hrest]; rfl, ?_⟩
    · rw [hdomain]; exact ⟨rfl, rfl, rfl, rfl, rfl, rfl, rfl, rfl, rfl⟩
    · have hrailOf : ((s.freezingTimedOut d).finish d).railOf d = s.railOf d := hframe.railOf d
      rw [hraised]
      exact hframe.trans (hrailOf ▸ State.DomainFrame.fallbackCheck _ d)
    · exact (State.fallbackCheck_follows _ _).of_similar (State.finish_similar (s.freezingTimedOut d) d _) hframe.setups

/-- Settles O42: only a covered domain in RAISING and one in the RAIL stage act on the news. -/
theorem assuredCodeReleasesTheWaiting : Obligations.AssuredCodeReleasesTheWaiting := by
  intro s d hmoves _ hnews
  have hsound : (s.domain d).MovesSound := (hmoves d).1
  have hdomain := s.newsTaken_domain d
  rw [exec_assuredCodeChange]
  by_cases hrail : (s.domain d).state = .waking .rail
  case pos =>
    have hsettled : ((s.newsTaken d).domain d).settled = false := by
      rw [hdomain]; exact hsound.not_settled (by rw [hrail]; nofun)
    have hwakes := State.checkRailStage_wakesTo hsettled (by rw [hdomain]; exact hrail)
      (by rw [hdomain]; exact hsound.gated_eq (by rw [hrail]; rfl))
    simp only [State.WakesTo, hdomain] at hwakes
    have hunchanged : (((s.newsTaken d).checkRailStage d).domain d).assuredNews = false := by
      rw [State.checkRailStage_domain, hdomain]
      split <;> rfl
    refine ⟨_, by rw [execAssuredCodeChange_rail hnews hrail],
      ((State.DomainMove.newsTaken s d).trans (.checkRailStage _ d)).frame.trans (.finish _ d), ?_, ?_, ?_, ?_, ?_,
      fun _ => hwakes, fun _ h => absurd hrail h⟩
    · rw [State.finish_domain]; exact hunchanged
    · rw [State.finish_eq, State.checkRailStage]; split <;> rfl
    · rw [State.finish_boxes, State.checkRailStage_boxes]; rfl
    · rw [State.finish_park, State.checkRailStage_park]; rfl
    · rw [hrail]; nofun
  case neg =>
    by_cases hraising : (s.domain d).state = .raising ∧ s.code d (s.domain d).target ≤ s.assured (s.railOf d)
    case pos =>
      obtain ⟨hstate, hcover⟩ := hraising
      have hafter := (s.newsTaken d).startStep_finish_domain d (s.domain d).target
        (by rw [hdomain]; exact hsound.not_settled (by rw [hstate]; nofun))
      rw [hdomain] at hafter
      refine ⟨_, by rw [execAssuredCodeChange_raising hnews hstate hcover],
        ((State.DomainMove.newsTaken s d).trans (.startStep _ d _ _)).frame.trans (.finish _ d), by rw [hafter], ?_, ?_, ?_,
        fun _ _ => ?_, fun h => absurd h hrail, fun h => absurd ⟨hstate, hcover⟩ h⟩
      · rw [State.finish_eq]; rfl
      · rw [State.finish_boxes]; rfl
      · rw [State.finish_park]; rfl
      · rw [hafter]; exact ⟨rfl, rfl, rfl, rfl, rfl⟩
    case neg =>
      exact ⟨_, execAssuredCodeChange_other hnews hraising hrail, (State.DomainMove.newsTaken s d).frame, by rw [hdomain], rfl,
        rfl, rfl, fun h hcover => absurd ⟨h, hcover⟩ hraising, fun h => absurd h hrail, fun _ _ => rfl⟩

end Sys2Proof.Domains
end

section
/-! PROOFS. Parking, consent and waking: the quiet timer, the answers and the timeout of the consent channel, and the gate
settle timers. -/

-- The proofs are elaborated one after another: side by side they would exceed the memory that the check allows.
set_option Elab.async false

namespace Sys2Proof.Machine

variable {s t u : State} {d : DomainId}

theorem exec_quietTimerExpiry (d : DomainId) (s : State) : exec (.quietTimerExpiry d) s = execQuietTimerExpiry d s := rfl
theorem exec_cgrantRise (s : State) : exec .cgrantRise s = execCgrantRise s := rfl
theorem exec_cdenyRise (s : State) : exec .cdenyRise s = execCdenyRise s := rfl
theorem exec_consentLineFall (line : AnswerLine) (s : State) :
    exec (.consentLineFall line) s = execConsentLineFall line s := rfl
theorem exec_consentTimeout (s : State) : exec .consentTimeout s = execConsentTimeout s := rfl
theorem exec_gateSettleExpiry (d : DomainId) (s : State) : exec (.gateSettleExpiry d) s = execGateSettleExpiry d s := rfl
theorem exec_wakeGateSettleExpiry (d : DomainId) (s : State) :
    exec (.wakeGateSettleExpiry d) s = execWakeGateSettleExpiry d s := rfl

/-! ### The channel -/

theorem State.channelFree_iff : s.channelFree = true ↔
    s.park.request = none ∧ s.pins.cgrant = false ∧ s.pins.cdeny = false := by
  simp [State.channelFree, State.creq, and_assoc]

theorem State.serveConsent_busy (h : s.park.request ≠ none ∨ s.pins.cgrant = true ∨ s.pins.cdeny = true) :
    s.serveConsent = s := by
  refine if_neg fun hfree => ?_
  obtain ⟨hrequest, hgrant, hdeny⟩ := State.channelFree_iff.1 hfree
  obtain h | h | h := h
  · exact h hrequest
  · rw [hgrant] at h; cases h
  · rw [hdeny] at h; cases h

theorem State.serveConsent_idle (h : s.park.request ≠ none ∨ s.pins.cgrant = true ∨ s.pins.cdeny = true ∨
    s.park.queue = []) : s.serveConsent = s := by
  obtain hbusy | hempty := (or_congr_right or_assoc.symm).trans or_assoc.symm |>.1 h
  · exact State.serveConsent_busy hbusy
  · unfold State.serveConsent
    simp only [hempty, ite_self]

theorem State.serveConsent_sends {e : DomainId} {rest : List DomainId} (hrequest : s.park.request = none)
    (hgrant : s.pins.cgrant = false) (hdeny : s.pins.cdeny = false) (hqueue : s.park.queue = e :: rest) :
    s.serveConsent = { s with park := { s.park with
      queue := rest, request := some (e, s.park.timeout.toNat * 100), cdom := BitVec.ofNat 4 e } } := by
  unfold State.serveConsent
  rw [if_pos (State.channelFree_iff.2 ⟨hrequest, hgrant, hdeny⟩)]
  simp only [hqueue]
  rfl

@[simp] theorem State.serveConsent_boxes (s : State) : s.serveConsent.boxes = s.boxes := by
  rw [State.serveConsent_frame]

@[simp] theorem State.serveConsent_pins (s : State) : s.serveConsent.pins = s.pins := by
  rw [State.serveConsent_frame]

/-- A domain outside CONSENT joins the queue at its tail (R107). -/
theorem State.ConsentSound.joins (h : s.ConsentSound) (hstate : (s.domain d).state ≠ .consent)
    (hqueue : u.park = s.park) : u.joinConsent d = { u with park := { s.park with queue := s.park.queue ++ [d] } } := by
  obtain ⟨-, -, hmem⟩ := h
  have hout := mt (hmem d).2 hstate
  unfold State.joinConsent
  rw [hqueue, if_neg (by simpa using hout)]

/-! ### The quiet timer runs out (R79) -/

/-- The domain in CONSENT, its records no longer settled, before it joins the channel. -/
def State.asking (s : State) (d : DomainId) : State :=
  (s.setDomain d { s.domain d with state := .consent, settled := false, quietTimer := none }).unsettleRecords d

theorem State.asking_domain (s : State) (d : DomainId) :
    (s.asking d).domain d = { s.domain d with state := .consent, settled := false, quietTimer := none } :=
  State.setDomain_domain_self ..

theorem State.DomainMove.asking (s : State) (d : DomainId) : s.DomainMove d (s.asking d) :=
  (State.DomainMove.setDomain s d (c := { s.domain d with state := .consent, settled := false, quietTimer := none }) rfl
    rfl).trans (.unsettleRecords _ d)

/-- The channel with the domain at the tail of its queue, served where it is free. -/
def State.joined (s : State) (d : DomainId) : State := ((s.asking d).joinConsent d).serveConsent

theorem State.DomainMove.joined (s : State) (d : DomainId) : s.DomainMove d (s.joined d) :=
  ((State.DomainMove.asking s d).trans (.joinConsent _ d d)).trans (.serveConsent _ d)

theorem execQuietTimerExpiry_asks (hquiet : (s.domain d).quietTimer ≠ none) (hstate : (s.domain d).state = .steady) :
    execQuietTimerExpiry d s = .next ((s.joined d).finish d) :=
  if_pos ⟨Option.isSome_iff_ne_none.2 hquiet, hstate⟩

/-- The domain at the tail of the queue, before the channel is served. -/
def State.atTail (s : State) (d : DomainId) : State :=
  { s.asking d with park := { s.park with queue := s.park.queue ++ [d] } }

theorem State.joined_eq (h : s.ConsentSound) (hstate : (s.domain d).state ≠ .consent) :
    s.joined d = (s.atTail d).serveConsent :=
  congrArg State.serveConsent (h.joins (u := s.asking d) hstate rfl)

theorem State.joined_domain (h : s.ConsentSound) (hstate : (s.domain d).state ≠ .consent) :
    (s.joined d).domain d = { s.domain d with state := .consent, settled := false, quietTimer := none } := by
  rw [State.joined_eq h hstate, State.serveConsent_domain]
  exact s.asking_domain d

theorem State.joined_finish_domain (h : s.ConsentSound) (hstate : (s.domain d).state ≠ .consent) :
    ((s.joined d).finish d).domain d = { s.domain d with
      state := .consent, settled := false, quietTimer := none, need := some (s.code d (s.domain d).current) } := by
  have hdomain := State.joined_domain h hstate
  have hneed : (s.joined d).needOf d = some (s.code d (s.domain d).current) := by
    simp only [State.needOf, hdomain, (State.DomainMove.joined s d).frame.code]
  rw [State.finish_domain, State.quietAfter_of_not_settled (by rw [hdomain]), hneed, hdomain]

/-! ### An answer, or the timeout (R109 to R112) -/

/-- In a sound channel the subject of the request is in CONSENT, and not in the queue. -/
theorem State.ConsentSound.subject {n : Nat} (h : s.ConsentSound) (hrequest : s.park.request = some (d, n)) :
    (s.domain d).state = .consent ∧ d ∉ s.park.queue :=
  ⟨(h.2.2 d).2 (.inr (by rw [hrequest]; rfl)), h.2.1 (d, n) hrequest⟩

theorem State.answerConsent_granted (h : (s.domain d).state = .consent) :
    s.answerConsent d true = (((s.endRequest.granted d).finish d)).serveConsent :=
  congrArg State.serveConsent (if_pos h)

theorem State.answerConsent_denied (h : (s.domain d).state = .consent) :
    s.answerConsent d false = (((s.endRequest.denied d).finish d)).serveConsent :=
  congrArg State.serveConsent (if_pos h)

theorem State.DomainMove.grantedRequest (s : State) (d : DomainId) : s.DomainMove d (s.endRequest.granted d) :=
  (State.DomainMove.endRequest s d).trans (.granted _ d)

theorem State.DomainMove.deniedRequest (s : State) (d : DomainId) : s.DomainMove d (s.endRequest.denied d) :=
  (State.DomainMove.endRequest s d).trans (.denied _ d)

/-- Nothing but the channel and the domain changes with a grant. -/
theorem State.granted_finish_domain (s : State) (d : DomainId) (hsettled : (s.domain d).settled = false) :
    ((s.endRequest.granted d).finish d).domain d = { s.domain d with
      state := .parking, strobe := some .stop, gated := true
      gateTimer := some ((s.config d).gateCount.toNat * 10), quietTimer := none, need := none } := by
  have hdomain : (s.endRequest.granted d).domain d = { s.domain d with
      state := .parking, strobe := some .stop, gated := true
      gateTimer := some ((s.config d).gateCount.toNat * 10) } := s.endRequest.granted_domain d
  have hneed : (s.endRequest.granted d).needOf d = none := by simp only [State.needOf, hdomain]
  rw [State.finish_domain, State.quietAfter_of_not_settled (by rw [hdomain]; exact hsettled), hneed, hdomain]

/-- A deny plans from STEADY at the level at which the domain asked. -/
theorem State.denied_finish (s : State) (d : DomainId) (hstate : (s.domain d).state ≠ .frozen) :
    s.PlansTo ((s.endRequest.denied d).finish d) d (s.domain d).current (s.domain d).target ∧
    s.Told ((s.endRequest.denied d).finish d) (s.planNotices d (s.domain d).current (s.domain d).target) ∧
    ((s.endRequest.denied d).finish d).park = { s.park with request := none } := by
  have hdomain : (s.endRequest.setDomain d { s.domain d with state := .steady }).domain d =
      { s.domain d with state := .steady } := State.setDomain_domain_self ..
  have halike : s.PlansAlike d (s.endRequest.setDomain d { s.domain d with state := .steady }) :=
    ⟨rfl, rfl, fun _ => rfl, rfl, by rw [hdomain], by rw [hdomain]; simp [hstate]⟩
  have hplans := State.plan_finish_plansTo (s := s.endRequest.setDomain d { s.domain d with state := .steady }) (d := d)
    (by rw [hdomain]; nofun)
  have htold := State.plan_finish_told (s.endRequest.setDomain d { s.domain d with state := .steady }) d
  rw [hdomain] at hplans htold
  rw [halike.planNotices] at htold
  refine ⟨halike.plansTo hplans, halike.told htold, ?_⟩
  rw [State.finish_park, State.denied, State.plan_park]
  rfl

/-- The evaluation of a settled domain places what its level and the records give. -/
theorem State.evaluateSettled_boxes_congr (hrecords : t.records = s.records) (hboxes : t.boxes = s.boxes)
    (hcurrent : (t.domain d).current = (s.domain d).current) :
    (t.evaluateSettled d).boxes = (s.evaluateSettled d).boxes := by
  refine Vector.ext fun i hi => ?_
  have hbox := t.evaluateSettled_box d ⟨i, hi⟩
  have hsame : t.settledNotices d (t.domain d).current ⟨i, hi⟩ = s.settledNotices d (s.domain d).current ⟨i, hi⟩ := by
    rw [hcurrent]
    simp only [State.settledNotices, State.live_congr hrecords]
  rw [hsame, State.box, State.box, hboxes] at hbox
  exact hbox.trans (s.evaluateSettled_box d ⟨i, hi⟩).symm

theorem State.plan_boxes (s : State) (d : DomainId) : (s.plan d).boxes =
    (if (s.domain d).target = (s.domain d).current then s.evaluateSettled d else s).boxes := by
  dsimp only [State.plan]
  split
  · exact State.evaluateSettled_boxes_congr rfl rfl (by rw [State.setDomain_domain_self])
  · split <;> rfl

/-- The pending sets after a deny. -/
theorem State.denied_boxes (s : State) (d : DomainId) : ((s.endRequest.denied d).finish d).boxes =
    (if (s.domain d).target = (s.domain d).current then s.evaluateSettled d else s).boxes := by
  rw [State.finish_boxes, State.denied, State.plan_boxes, State.setDomain_domain_self]
  show (if (s.domain d).target = (s.domain d).current then _ else _ : State).boxes = _
  split
  · exact State.evaluateSettled_boxes_congr rfl rfl (by rw [State.setDomain_domain_self]; rfl)
  · rfl

theorem State.silent_domain (s : State) (d e : DomainId) :
    (s.setBox supervisor ((s.box supervisor).place (.consentSilent d))).domain e = s.domain e := rfl

theorem State.finish_pins (s : State) (d : DomainId) : (s.finish d).pins = s.pins := by
  rw [State.finish_eq]

/-- The state in which the answer line is high, or CONSENT_SILENT is placed. -/
def State.grantHigh (s : State) : State := { s with pins := { s.pins with cgrant := true } }
def State.denyHigh (s : State) : State := { s with pins := { s.pins with cdeny := true } }
def State.silent (s : State) (d : DomainId) : State :=
  s.setBox supervisor ((s.box supervisor).place (.consentSilent d))

section Answers
variable {n : Nat} (hrequest : s.park.request = some (d, n)) (hstate : (s.domain d).state = .consent)
include hrequest hstate

theorem execCgrantRise_grants (hlow : s.pins.cgrant = false) :
    execCgrantRise s = .next ((s.grantHigh.endRequest.granted d).finish d) := by
  have hbusy : ((s.grantHigh.endRequest.granted d).finish d).serveConsent = (s.grantHigh.endRequest.granted d).finish d :=
    State.serveConsent_busy (.inr (.inl (by rw [State.finish_pins]; rfl)))
  have hanswer := State.answerConsent_granted (s := s.grantHigh) (d := d) hstate
  rw [hbusy] at hanswer
  simp only [execCgrantRise, hlow, hrequest, Bool.false_eq_true, if_false]
  exact congrArg Host.Outcome.next hanswer

theorem execCdenyRise_denies (hlow : s.pins.cdeny = false) :
    execCdenyRise s = .next ((s.denyHigh.endRequest.denied d).finish d) := by
  have hpins : ((s.denyHigh.endRequest.denied d).finish d).pins = s.denyHigh.pins := by
    rw [State.finish_pins, State.denied]
    exact (State.DomainFrame.plan _ d).pins
  have hbusy : ((s.denyHigh.endRequest.denied d).finish d).serveConsent = (s.denyHigh.endRequest.denied d).finish d :=
    State.serveConsent_busy (.inr (.inr (by rw [hpins]; rfl)))
  have hanswer := State.answerConsent_denied (s := s.denyHigh) (d := d) hstate
  rw [hbusy] at hanswer
  simp only [execCdenyRise, hlow, hrequest, Bool.false_eq_true, if_false]
  exact congrArg Host.Outcome.next hanswer

/-- The silence policy decides in the place of an answer (R112). -/
theorem execConsentTimeout_park (hpolicy : (s.config d).policy = .park) :
    execConsentTimeout s = .next (((s.silent d).endRequest.granted d).finish d).serveConsent := by
  have hanswer := State.answerConsent_granted (s := s.silent d) (d := d) hstate
  simp only [execConsentTimeout, hrequest]
  refine congrArg Host.Outcome.next (.trans ?_ hanswer)
  exact congrArg ((s.silent d).answerConsent d) (decide_eq_true hpolicy)

theorem execConsentTimeout_stay (hpolicy : (s.config d).policy = .stay) :
    execConsentTimeout s = .next (((s.silent d).endRequest.denied d).finish d).serveConsent := by
  have hanswer := State.answerConsent_denied (s := s.silent d) (d := d) hstate
  simp only [execConsentTimeout, hrequest]
  refine congrArg Host.Outcome.next (.trans ?_ hanswer)
  exact congrArg ((s.silent d).answerConsent d) (decide_eq_false fun h => nomatch hpolicy.symm.trans h)

end Answers

/-- Where a domain is does not change when the channel is served. -/
theorem State.PlansTo.serve {current target : Level} (h : s.PlansTo t d current target) :
    s.PlansTo t.serveConsent d current target := by
  have hframe := State.DomainFrame.serveConsent t d
  simp only [State.PlansTo, State.QuietTimerFollows, State.serveConsent_domain, State.serveConsent_record, hframe.config,
    hframe.hasFloor]
  exact h

/-- The channel once a request has ended and the next is served where both lines are low (R108). -/
theorem State.serveConsent_ended (hpark : t.park = { s.park with request := none }) (hpins : t.pins = s.pins) :
    (s.pins.cgrant = true ∨ s.pins.cdeny = true ∨ s.park.queue = [] →
      t.serveConsent.park = { s.park with request := none }) ∧
    (∀ e queue, s.pins.cgrant = false → s.pins.cdeny = false → s.park.queue = e :: queue →
      t.serveConsent.park = { s.park with
        queue := queue, request := some (e, s.park.timeout.toNat * 100), cdom := BitVec.ofNat 4 e }) := by
  refine ⟨fun hidle => ?_, fun e queue hgrant hdeny hqueue => ?_⟩
  · rw [State.serveConsent_idle (by rw [hpins, hpark]; exact .inr hidle), hpark]
  · rw [State.serveConsent_sends (e := e) (rest := queue) (by rw [hpark]) (by rw [hpins]; exact hgrant)
      (by rw [hpins]; exact hdeny) (by rw [hpark]; exact hqueue), hpark]

/-! ### The gate settle timers (R115, R119) -/

/-- The state in which the gate settle time is over. -/
def State.gateSettled (s : State) (d : DomainId) : State := s.setDomain d { s.domain d with gateTimer := none }

theorem State.gateSettled_domain (s : State) (d : DomainId) :
    (s.gateSettled d).domain d = { s.domain d with gateTimer := none } := State.setDomain_domain_self ..

theorem State.DomainMove.gateSettled (s : State) (d : DomainId) : s.DomainMove d (s.gateSettled d) :=
  .setDomain s d rfl rfl

theorem State.gateSettled_wanted (s : State) (d : DomainId) : (s.gateSettled d).wanted d = s.wanted d :=
  (State.DomainMove.gateSettled s d).frame.wanted d

theorem State.enterParked_box (s : State) (d : DomainId) (p : PortId) :
    (s.enterParked d).box p = (s.parkedNotices d p).foldl Box.place (s.box p) := by
  rw [State.enterParked, State.evaluateParked_box]
  simp only [State.parkedNotices, State.setDomain_domain_self]
  rfl

theorem State.enterParked_park (s : State) (d : DomainId) : (s.enterParked d).park = s.park :=
  State.evaluate_park _ d _

/-- The domain at the entry of the CLOCK stage: back in the RAIL stage where its rail does not cover it (R120). -/
theorem State.enterClock_domain (s : State) (d : DomainId) : (s.enterClock d).domain d =
    if s.assured (s.railOf d) < s.code d (s.domain d).target then
      { s.domain d with state := .waking .rail, gated := true }
    else { s.domain d with
      state := .waking .clock, step := some (s.domain d).target
      strobe := some (.step (s.point d (s.domain d).target).clock), lockTimer := none } := by
  unfold State.enterClock
  dsimp only
  by_cases h : s.assured (s.railOf d) < s.code d (s.domain d).target
  · rw [if_pos h, if_pos h, State.setDomain_domain_self]
  · rw [if_neg h, if_neg h, State.startStep, State.setDomain_domain_self]

theorem State.enterClock_rest (s : State) (d : DomainId) :
    (s.enterClock d).records = s.records ∧ (s.enterClock d).boxes = s.boxes ∧ (s.enterClock d).park = s.park := by
  unfold State.enterClock
  dsimp only
  split <;> exact ⟨rfl, rfl, rfl⟩

theorem higherCode_self (code : Byte) : higherCode code code = code := ite_self code

section GateTimer
variable (htimer : (s.domain d).gateTimer ≠ none)
include htimer

theorem execGateSettleExpiry_wakes (hstate : (s.domain d).state = .parking) (hwanted : s.wanted d = true) :
    execGateSettleExpiry d s = .next (((s.gateSettled d).beginWake d).finish d) :=
  (if_pos ⟨Option.isSome_iff_ne_none.2 htimer, hstate⟩).trans (congrArg (fun u : State => Host.Outcome.next (u.finish d))
    (if_pos ((s.gateSettled_wanted d).trans hwanted)))

theorem execGateSettleExpiry_parks (hstate : (s.domain d).state = .parking) (hwanted : s.wanted d = false) :
    execGateSettleExpiry d s = .next (((s.gateSettled d).enterParked d).finish d) :=
  (if_pos ⟨Option.isSome_iff_ne_none.2 htimer, hstate⟩).trans (congrArg (fun u : State => Host.Outcome.next (u.finish d))
    (if_neg (by rw [Bool.not_eq_true]; exact (s.gateSettled_wanted d).trans hwanted)))

theorem execWakeGateSettleExpiry_enters (hstate : (s.domain d).state = .waking .gate) :
    execWakeGateSettleExpiry d s = .next (((s.gateSettled d).enterClock d).finish d) :=
  if_pos ⟨Option.isSome_iff_ne_none.2 htimer, hstate⟩

end GateTimer

end Sys2Proof.Machine

/-! ### The statements -/

namespace Sys2Proof.Parking

open Sys2Proof.Machine

/-- Settles O43: the timer runs only on a settled domain, which the channel does not hold yet. -/
theorem quietExpiryAsksForConsent : Obligations.QuietExpiryAsksForConsent := by
  intro s d hmoves hconsent hquiet
  have hsound : (s.domain d).MovesSound := (hmoves d).1
  have hstate : (s.domain d).state = .steady := hsound.settled_iff.1 ((hmoves d).2 hquiet).1
  have hout : (s.domain d).state ≠ .consent := by rw [hstate]; nofun
  have hdomain := State.joined_finish_domain hconsent hout
  have hjoined := State.joined_eq hconsent hout
  refine ⟨_, by rw [exec_quietTimerExpiry, execQuietTimerExpiry_asks hquiet hstate],
    (State.DomainMove.joined s d).frame.trans (.finish _ d), ?_, ?_, ?_, ?_, ?_, ?_, ?_, fun h r hr hd => ?_,
    fun hrequest hgrant hdeny hqueue => ?sends, fun hbusy => ?waits⟩
  · rw [State.finish_boxes, hjoined, State.serveConsent_boxes]; rfl
  · rw [hdomain]
  · rw [hdomain]
  · rw [hdomain]
  · rw [hdomain]
  · rw [hdomain]; exact hsound.gated_eq (by rw [hstate]; rfl)
  · rw [hdomain]
  · rw [State.finish_record, hjoined, State.serveConsent_record]
    exact ((State.unsettleRecords_record _ d h).trans (congrArg (Option.map _) hr)).trans (congrArg some (if_pos hd))
  case sends =>
    rw [State.finish_park, hjoined]
    refine (congrArg State.park (State.serveConsent_sends (s := s.atTail d) (e := d) (rest := []) hrequest hgrant hdeny
      (congrArg (· ++ [d]) hqueue))).trans ?_
    rw [← hqueue]
    rfl
  case waits =>
    rw [State.finish_park, hjoined]
    exact congrArg State.park (State.serveConsent_busy (s := s.atTail d) hbusy)

/-- Settles O45: without a request an edge meets at most a channel that it frees. -/
theorem answerLinesHoldTheChannel : Obligations.AnswerLinesHoldTheChannel := by
  intro s
  refine ⟨fun hrequest hlow => ?grant, fun hrequest hlow => ?deny, fun line hgrant hdeny => ?fall⟩
  case grant => simp only [exec_cgrantRise, execCgrantRise, hlow, hrequest, Bool.false_eq_true, if_false]
  case deny => simp only [exec_cdenyRise, execCdenyRise, hlow, hrequest, Bool.false_eq_true, if_false]
  case fall =>
    rw [exec_consentLineFall]
    cases line with
    | cgrant =>
      have hexec : execConsentLineFall .cgrant s = .next { s with pins := { s.pins with cgrant := false } }.serveConsent :=
        if_pos (hgrant rfl)
      rw [hexec]
      exact ⟨fun hidle => congrArg Host.Outcome.next (State.serveConsent_idle hidle), fun d queue hrequest hg hd hqueue =>
        congrArg Host.Outcome.next (State.serveConsent_sends hrequest hg hd hqueue)⟩
    | cdeny =>
      have hexec : execConsentLineFall .cdeny s = .next { s with pins := { s.pins with cdeny := false } }.serveConsent :=
        if_pos (hdeny rfl)
      rw [hexec]
      exact ⟨fun hidle => congrArg Host.Outcome.next (State.serveConsent_idle hidle), fun d queue hrequest hg hd hqueue =>
        congrArg Host.Outcome.next (State.serveConsent_sends hrequest hg hd hqueue)⟩

/-- Settles O44, for the two answers and for the two silence policies. -/
theorem consentIsDecided : Obligations.ConsentIsDecided := by
  refine ⟨fun s d n hmoves hconsent hrequest => ?answers, fun s d n hmoves hconsent hrequest => ?silence⟩
  case answers =>
    have hsound : (s.domain d).MovesSound := (hmoves d).1
    obtain ⟨hstate, -⟩ := hconsent.subject hrequest
    refine ⟨fun hlow => ?grant, fun hlow => ?deny⟩
    case grant =>
      have hdomain := s.grantHigh.granted_finish_domain d (hsound.not_settled (by rw [hstate]; nofun))
      have hrest := (s.grantHigh.endRequest.granted d).finish_eq d
      have hpins : ((s.grantHigh.endRequest.granted d).finish d).pins = s.grantHigh.pins := by rw [State.finish_pins]; rfl
      refine ⟨_, by rw [exec_cgrantRise, execCgrantRise_grants hrequest hstate hlow], hpins, ?_, by rw [hrest]; rfl,
        by rw [hrest]; rfl, by rw [hrest]; rfl, ?_⟩
      · rw [hpins]
        exact (State.DomainMove.grantedRequest s.grantHigh d).frame.trans (.finish _ d)
      · rw [hdomain]
        exact ⟨rfl, rfl, rfl, rfl, rfl, rfl, (hsound.idle (.inr (.inr (.inl hstate)))).step⟩
    case deny =>
      obtain ⟨hplans, htold, hpark⟩ := s.denyHigh.denied_finish d (by rw [show (s.denyHigh.domain d).state = _ from hstate]; nofun)
      have hframe := (State.DomainMove.deniedRequest s.denyHigh d).frame.trans (.finish _ d)
      refine ⟨_, by rw [exec_cdenyRise, execCdenyRise_denies hrequest hstate hlow], hframe.pins, ?_, hpark, hplans, htold⟩
      rw [hframe.pins]
      exact hframe
  case silence =>
    have hsound : (s.domain d).MovesSound := (hmoves d).1
    obtain ⟨hstate, -⟩ := hconsent.subject hrequest
    dsimp only
    cases hpolicy : (s.config d).policy with
    | park =>
      have hdomain := (s.silent d).granted_finish_domain d (hsound.not_settled (by rw [hstate]; nofun))
      have hrest := ((s.silent d).endRequest.granted d).finish_eq d
      obtain ⟨hidle, hserves⟩ := State.serveConsent_ended (s := s) (t := ((s.silent d).endRequest.granted d).finish d)
        (by rw [hrest]; rfl) (by rw [hrest]; rfl)
      refine ⟨_, by rw [exec_consentTimeout, execConsentTimeout_park hrequest hstate hpolicy],
        ((State.DomainMove.grantedRequest (s.silent d) d).frame.trans (.finish _ d)).trans (.serveConsent _ d),
        fun _ => ⟨?_, ?_⟩, nofun, hidle, hserves⟩
      · rw [State.serveConsent_boxes, hrest]; rfl
      · rw [State.serveConsent_domain, hdomain]; exact ⟨rfl, rfl, rfl, rfl, rfl⟩
    | stay =>
      obtain ⟨hplans, -, hpark⟩ := (s.silent d).denied_finish d
        (by rw [show ((s.silent d).domain d).state = _ from hstate]; nofun)
      have hframe := (State.DomainMove.deniedRequest (s.silent d) d).frame.trans (.finish _ d)
      obtain ⟨hidle, hserves⟩ := State.serveConsent_ended (s := s) (t := ((s.silent d).endRequest.denied d).finish d) hpark
        hframe.pins
      refine ⟨_, by rw [exec_consentTimeout, execConsentTimeout_stay hrequest hstate hpolicy],
        hframe.trans (.serveConsent _ d), nofun, fun _ => ⟨?_, ?_⟩, hidle, hserves⟩
      · exact hplans.serve
      · have hboxes := (s.silent d).denied_boxes d
        rw [State.silent, State.silent_domain] at hboxes
        rw [State.serveConsent_boxes, State.silent, hboxes]

/-- Settles O46, for the gate settle time of a parking and that of a wake. -/
theorem gateSettleExpiryParksOrWakes : Obligations.GateSettleExpiryParksOrWakes := by
  intro s d hmoves htimer
  have hsound : (s.domain d).MovesSound := (hmoves d).1
  have hdomain := s.gateSettled_domain d
  dsimp only
  refine ⟨fun hstate => ?parking, fun hstate => ?gate⟩
  case parking =>
    have hsettled : ((s.gateSettled d).domain d).settled = false := by
      rw [hdomain]; exact hsound.not_settled (by rw [hstate]; nofun)
    rw [exec_gateSettleExpiry]
    cases hwanted : s.wanted d with
    | true =>
      have hwakes := State.beginWake_wakesTo hsettled
      simp only [State.WakesTo, hdomain] at hwakes
      refine ⟨_, by rw [execGateSettleExpiry_wakes htimer hstate hwanted],
        ((State.DomainMove.gateSettled s d).trans (.beginWake _ d)).frame.trans (.finish _ d), ?_,
        fun _ => ⟨hwakes, ?_, fun h r hr hd => ?_⟩, nofun⟩
      · rw [State.finish_park, State.beginWake_park]; rfl
      · rw [State.finish_boxes, State.beginWake_boxes]; rfl
      · rw [State.finish_record, State.beginWake_record]
        exact (congrArg (Option.map _) hr).trans (congrArg some (if_pos hd))
    | false =>
      have hparked := (s.gateSettled d).enterParked_domain d
      rw [hdomain] at hparked
      refine ⟨_, by rw [execGateSettleExpiry_parks htimer hstate hwanted],
        ((State.DomainMove.gateSettled s d).trans (.enterParked _ d)).frame.trans (.finish _ d), ?_, nofun,
        fun _ => ⟨?_, ?_, ?_, ?_, ?_, fun p => ?_, fun h r hr hd => ?_⟩⟩
      · rw [State.finish_park, State.enterParked_park]; rfl
      · rw [State.finish_domain, hparked]
      · rw [State.finish_domain, hparked]
      · rw [State.finish_domain, hparked]
      · rw [State.finish_domain]; simp only [State.needOf, hparked]
      · rw [State.finish_domain, hparked]
      · rw [State.finish_box, State.enterParked_box]
        simp only [State.parkedNotices, hdomain]
        rfl
      · rw [State.finish_record, State.enterParked_record]
        exact (congrArg (Option.map _) hr).trans (congrArg some (if_pos hd))
  case gate =>
    have hclock := (s.gateSettled d).enterClock_domain d
    have hframe := (State.DomainMove.gateSettled s d).frame.trans (.enterClock _ d)
    obtain ⟨hrecords, hboxes, hpark⟩ := (s.gateSettled d).enterClock_rest d
    rw [hdomain] at hclock
    rw [exec_wakeGateSettleExpiry, execWakeGateSettleExpiry_enters htimer hstate]
    refine ⟨_, rfl, hframe.trans (.finish _ d), ?_, ?_, ?_, ?_, fun hlow => ?_, fun hcover => ?_⟩
    · rw [State.finish_eq]; exact hrecords
    · rw [State.finish_boxes]; exact hboxes
    · rw [State.finish_park]; exact hpark
    · rw [State.finish_domain, hclock]; split <;> rfl
    · have hrail := hclock.trans (if_pos hlow)
      rw [State.finish_domain]
      simp only [State.needOf, hrail, hframe.code]
      exact ⟨trivial, trivial, trivial⟩
    · have hstep := hclock.trans (if_neg (BitVec.not_lt.2 hcover))
      rw [State.finish_domain]
      simp only [State.needOf, hstep, hframe.code, Option.getD_some, higherCode_self]
      exact ⟨trivial, hsound.gated_eq (by rw [hstate]; rfl), trivial, rfl, trivial⟩

end Sys2Proof.Parking
end

section
/-! PROOFS. The rail controllers and the regulator link: the command rule, the rotation, the end of a try, and what PG
decides. -/

-- The proofs are elaborated one after another: side by side they would exceed the memory that the check allows.
set_option Elab.async false

namespace Sys2Proof.Machine

variable {s t u : State} {v : RailId}

theorem exec_linkSend (s : State) : exec .linkSend s = execLinkSend s := rfl
theorem exec_resetHoldEnd (s : State) : exec .resetHoldEnd s = execResetHoldEnd s := rfl
theorem exec_regulatorReply (reply : Byte) (pg : Bool) (s : State) :
    exec (.regulatorReply reply pg) s = execRegulatorReply reply pg s := rfl
theorem exec_replyTimeout (s : State) : exec .replyTimeout s = execReplyTimeout s := rfl
theorem exec_settleDeadline (v : RailId) (pg : Bool) (s : State) :
    exec (.settleDeadline v pg) s = execSettleDeadline v pg s := rfl
theorem exec_pgFall (v : RailId) (s : State) : exec (.pgFall v) s = execPgFall v s := rfl

/-! ### The command rule (R88) and the state of Table 5-3 -/

theorem Rail.commandRule_outstanding {r : Rail} {code : Byte} {tries : Try} {phase : CommandPhase}
    (h : r.command = .outstanding code tries phase) : r.commandRule = r := by
  simp only [Rail.commandRule, h]

theorem Rail.commandRule_met {r : Rail} (h : ∀ code tries phase, r.command ≠ .outstanding code tries phase)
    (hmet : r.required = r.confirmed) : r.commandRule = { r with command := .none } := by
  obtain ⟨code, tries, phase, hout, -⟩ | ⟨-, -, e⟩ | ⟨-, hne, -⟩ := r.commandRule_cases
  · exact absurd hout (h code tries phase)
  · exact e
  · exact absurd hmet hne

theorem Rail.commandRule_unmet {r : Rail} (h : ∀ code tries phase, r.command ≠ .outstanding code tries phase)
    (hunmet : r.required ≠ r.confirmed) : r.commandRule = { r with command := .queued r.required } := by
  obtain ⟨code, tries, phase, hout, -⟩ | ⟨-, hmet, -⟩ | ⟨-, -, e⟩ := r.commandRule_cases
  · exact absurd hout (h code tries phase)
  · exact absurd hmet hunmet
  · exact e

theorem Rail.ordinaryState_raising {r : Rail} {code : Byte} (hcode : r.command.code? = some code)
    (h : r.confirmed < code) (parked : Bool) : r.ordinaryState parked = .raising := by
  simp only [Rail.ordinaryState, hcode]
  exact if_pos h

theorem Rail.ordinaryState_lowering {r : Rail} {code : Byte} (hcode : r.command.code? = some code)
    (h : code < r.confirmed) (parked : Bool) : r.ordinaryState parked = .lowering := by
  simp only [Rail.ordinaryState, hcode]
  exact if_neg (by simp only [gt_iff_lt]; bv_omega)

theorem Rail.ordinaryState_idle {r : Rail} (hcode : r.command = .none) (parked : Bool) :
    r.ordinaryState parked = if parked = true ∧ r.confirmed = r.retention then .retention else .steady := by
  simp only [Rail.ordinaryState, hcode, Command.code?, Bool.and_eq_true, decide_eq_true_eq]

theorem State.reevaluate_of_faulted (h : (s.rail v).faulted = true) :
    s.reevaluate v = s.setRail v { s.rail v with required := s.requiredCode v } := if_pos h

/-! ### The rotation (R90) -/

theorem State.chooseRail_free (hfree : s.linkBusy = false) (hnone : s.link.elected = none) :
    s.chooseRail = { s with link := { s.link with elected := s.nextWaiting } } := by
  unfold State.chooseRail
  simp only [hfree, hnone, Bool.false_eq_true, if_false]

theorem State.chooseRail_busy (hbusy : s.linkBusy = true) :
    s.chooseRail = { s with link := { s.link with elected := none } } := if_pos hbusy

theorem commandFrame_eq (v : RailId) (code : Byte) (b : Bool) :
    commandFrame v code (!b) = (BitVec.ofNat 8 (80 + (if b then 0 else 4) + v.val), code) := by
  cases b <;> rfl

/-! ### Sending (R90, R91) -/

/-- The state in which the chosen rail's code has gone out, before the news of its assured code. -/
def State.sent (s : State) (v : RailId) (code : Byte) : State :=
  let t := (s.setRail v { s.rail v with command := .outstanding code .one .awaitingReply }).sendFrame v code .one
  { t with link := { t.link with lastServed := v, elected := none } }

theorem State.sent_rail (s : State) (v : RailId) (code : Byte) (w : RailId) : (s.sent v code).rail w =
    if w = v then { s.rail v with command := .outstanding code .one .awaitingReply } else s.rail w :=
  s.setRail_rail v w _

theorem execLinkSend_sends {code : Byte} (hfree : s.linkBusy = false) (helected : s.link.elected = some v)
    (hqueued : (s.rail v).command = .queued code) :
    execLinkSend s = .next (State.noteAssured v s (s.sent v code)) := by
  simp only [execLinkSend, hfree, helected, hqueued, Bool.false_eq_true, if_false]
  rfl

theorem lowerCode_eq (a b : Byte) : lowerCode a b = if b < a then b else a := by
  unfold lowerCode
  split_ifs <;> bv_omega

/-- A command that is sent lowers the assured code just where its code is below the confirmed one (R65, R91). -/
theorem Rail.assured_outstanding (r : Rail) (code : Byte) (tries : Try) (phase : CommandPhase) :
    Rail.assured { r with command := .outstanding code tries phase } = if code < r.confirmed then code else r.confirmed :=
  lowerCode_eq _ _

/-- A raise that is under way leaves the assured code at the confirmed one. -/
theorem State.setRail_assured_raise {code : Byte} {tries : Try} {phase : CommandPhase} (h : (s.rail v).confirmed < code) :
    (s.setRail v { s.rail v with command := .outstanding code tries phase }).assured v = (s.rail v).confirmed := by
  rw [State.assured, State.setRail_rail_self, Rail.assured_outstanding]
  exact if_neg (by bv_omega)

/-! ### Replies and timeouts (R92 to R97) -/

theorem readReply_eq_none {b : Byte} (h : b.toNat / 16 ≠ 10) : readReply b = none := if_neg h

theorem readReply_eq_some {b : Byte} (h : b.toNat / 16 = 10) :
    readReply b = some (b.getLsbD 3, b.getLsbD 2, ⟨b.toNat % 4, Nat.mod_lt _ (by decide)⟩) := if_pos h

/-- Nothing is on its way where the assured code has not changed. -/
theorem State.noteAssured_same (h : s.assured v = t.assured v) : State.noteAssured v s t = t := if_pos h

/-- What the outcome of a try makes of the rail, with the link free again (R93 to R97). -/
def State.outcome (u : State) (x : Transfer) (ack : Bool) : State :=
  if x.disregarded then u else if ack then u.accepted x.rail x.code x.tries else u.tryFails x .nak

theorem execRegulatorReply_dropped {reply : Byte} {pg : Bool} (h : s.link.transfer = none ∨ reply.toNat / 16 ≠ 10 ∨
    ∃ x, s.link.transfer = some x ∧ (reply.toNat % 4 ≠ x.rail ∨ reply.getLsbD 2 ≠ x.bit)) :
    execRegulatorReply reply pg s = .next s := by
  unfold execRegulatorReply
  obtain h | h | ⟨x, hx, h⟩ := h
  · simp only [h]
  · simp only [readReply_eq_none h]
    cases s.link.transfer <;> rfl
  · by_cases hmark : reply.toNat / 16 = 10
    · simp only [hx, readReply_eq_some hmark, Fin.ext_iff]
      exact if_neg fun ⟨hrail, hbit⟩ => h.elim (· hrail) (· hbit)
    · simp only [hx, readReply_eq_none hmark]

theorem execRegulatorReply_taken {reply : Byte} {x : Transfer} (pg : Bool) (hx : s.link.transfer = some x)
    (hmark : reply.toNat / 16 = 10) (hrail : reply.toNat % 4 = x.rail) (hbit : reply.getLsbD 2 = x.bit) :
    execRegulatorReply reply pg s = .next (State.noteAssured x.rail s
      (((s.samplePg x.rail pg).endTransfer.outcome x (reply.getLsbD 3)).chooseRail)) := by
  simp only [execRegulatorReply, hx, readReply_eq_some hmark, Fin.ext_iff]
  exact if_pos ⟨hrail, hbit⟩

theorem execReplyTimeout_taken {x : Transfer} (hx : s.link.transfer = some x) (htimer : s.link.replyTimer ≠ none) :
    execReplyTimeout s = .next (State.noteAssured x.rail s
      ((if x.disregarded then s.endTransfer else s.endTransfer.tryFails x .noReply).chooseRail)) := by
  obtain ⟨n, hn⟩ := Option.ne_none_iff_exists'.1 htimer
  simp only [execReplyTimeout, hx, hn]

theorem State.samplePg_pg (s : State) (v : RailId) (pg : Bool) : (s.samplePg v pg).pg v = pg := by
  simp [State.pg, State.samplePg]

theorem State.accepted_raise {code : Byte} {tries : Try} (h : (s.rail v).confirmed < code) :
    s.accepted v code tries = s.setRail v { s.rail v with
      command := .outstanding code tries (.settling ((code.toNat - (s.rail v).confirmed.toNat) *
        (s.rail v).stepTime.toNat + 25)) } := if_pos h

theorem State.accepted_lower {code : Byte} {tries : Try} (h : code ≤ (s.rail v).confirmed) :
    s.accepted v code tries = s.outcomeByPg v code := if_neg (by simp only [gt_iff_lt]; bv_omega)

theorem State.outcomeByPg_high {code : Byte} (h : s.pg v = true) : s.outcomeByPg v code = s.commandSucceeds v code :=
  if_pos h

theorem State.outcomeByPg_low {code : Byte} (h : s.pg v = false) :
    s.outcomeByPg v code = s.commandFails v .pgLow := if_neg (by rw [h]; nofun)

/-- The second try goes out, with the link busy again (R93). -/
def State.retried (u : State) (x : Transfer) : State :=
  { u.setRail x.rail { u.rail x.rail with command := .outstanding x.code .two .awaitingReply } with
    link := { u.link with
      transfer := some { rail := x.rail, code := x.code, tries := .two, bit := !u.link.bit, disregarded := false }
      replyTimer := some 100, bit := !u.link.bit
      frame := some (BitVec.ofNat 8 (80 + (if u.link.bit then 0 else 4) + x.rail.val), x.code), elected := none } }

theorem State.tryFails_one {x : Transfer} (h : x.tries = .one) (cause : RailCause) :
    (s.tryFails x cause).chooseRail = s.retried x := by
  have hfails : s.tryFails x cause = (s.setRail x.rail { s.rail x.rail with
      command := .outstanding x.code .two .awaitingReply }).sendFrame x.rail x.code .two := by
    simp only [State.tryFails, h]
  rw [hfails, State.chooseRail_busy rfl, State.retried, ← commandFrame_eq]
  rfl

theorem State.tryFails_two {x : Transfer} (h : x.tries = .two) (cause : RailCause) :
    s.tryFails x cause = s.commandFails x.rail cause := by
  simp only [State.tryFails, h]

/-- A second try leaves the assured code as the first has it. -/
theorem State.retried_assured {x : Transfer} (h : ∃ tries phase, (s.rail x.rail).command = .outstanding x.code tries phase) :
    s.assured x.rail = (s.retried x).assured x.rail := by
  obtain ⟨tries, phase, hout⟩ := h
  have hrail : (s.retried x).rail x.rail = { s.rail x.rail with command := .outstanding x.code .two .awaitingReply } :=
    s.setRail_rail_self x.rail _
  rw [State.assured, State.assured, hrail, Rail.assured_of_outstanding hout, Rail.assured_of_outstanding rfl]

/-! ### PG (R96, R98) -/

theorem execSettleDeadline_taken {code : Byte} {tries : Try} {deadline : Nat} (pg : Bool)
    (h : (s.rail v).command = .outstanding code tries (.settling deadline)) :
    execSettleDeadline v pg s = .next (State.noteAssured v s ((s.samplePg v pg).outcomeByPg v code)) := by
  simp only [execSettleDeadline, h]

/-- The rail of a command that succeeds, before its re-evaluation (R96, R130). -/
def Rail.succeeded (r : Rail) (code : Byte) : Rail :=
  { r with confirmed := code, command := .none, state := if r.state = .fallback then .held else r.state }

theorem State.commandSucceeds_eq (s : State) (v : RailId) (code : Byte) :
    s.commandSucceeds v code = (s.setRail v ((s.rail v).succeeded code)).reevaluate v := rfl

theorem State.commandSucceeds_similar (s : State) (v : RailId) (code : Byte) :
    ((s.rail v).succeeded code).Similar ((s.commandSucceeds v code).rail v) := by
  have h := (s.setRail v ((s.rail v).succeeded code)).reevaluate_similar v v
  rwa [State.setRail_rail_self] at h

theorem State.commandSucceeds_assured (s : State) (v : RailId) (code : Byte) :
    (s.commandSucceeds v code).assured v = code :=
  (s.commandSucceeds_similar v code).assured.trans (Rail.assured_of_not_outstanding nofun)

@[simp] theorem State.commandSucceeds_domain (s : State) (v : RailId) (code : Byte) (d : DomainId) :
    (s.commandSucceeds v code).domain d = s.domain d := State.reevaluate_domain ..

theorem State.commandSucceeds_railOf (s : State) (v : RailId) (code : Byte) (d : DomainId) :
    (s.commandSucceeds v code).railOf d = s.railOf d := State.reevaluate_railOf ..

/-- A confirmed raise is news to every domain of the rail, and to no other (R83). -/
theorem State.commandSucceeds_news {code : Byte} (s : State) (v : RailId) (d : DomainId) (h : u.assured v ≠ code) :
    (State.noteAssured v u (s.commandSucceeds v code)).domain d =
      if s.railOf d = v then { s.domain d with assuredNews := true } else s.domain d := by
  rw [State.noteAssured_domain, State.commandSucceeds_domain, State.commandSucceeds_railOf, State.commandSucceeds_assured]
  by_cases hv : s.railOf d = v
  · simp [hv, h]
  · simp [hv]

theorem Rail.hasOutstanding_iff {r : Rail} :
    r.hasOutstanding = true ↔ ∃ code tries phase, r.command = .outstanding code tries phase := by
  cases h : r.command <;> simp [Rail.hasOutstanding, h]

theorem execPgFall_free (h : (s.rail v).faulted = false) : execPgFall v s =
    .next (if (s.rail v).hasOutstanding then s.samplePg v false
      else State.noteAssured v s ((s.samplePg v false).enterFallback v .pgFall)) := by
  obtain ⟨hfallback, hheld, hshut⟩ := Rail.not_faulted.1 h
  unfold execPgFall
  dsimp only
  split
  · next h => exact absurd h hfallback
  · next h => exact absurd h hshut
  · next h => exact absurd h hheld
  · rfl

theorem execPgFall_ignored (h : (s.rail v).state = .fallback ∨ (s.rail v).state = .shutdown) :
    execPgFall v s = .next (s.samplePg v false) := by
  obtain h | h := h <;> simp only [execPgFall, h]

theorem execPgFall_held (h : (s.rail v).state = .held) : execPgFall v s =
    .next (State.noteAssured v s ((s.samplePg v false).enterShutdown v .pgFall)) := by
  simp only [execPgFall, h]

end Sys2Proof.Machine

/-! ### The statements -/

namespace Sys2Proof.Rails

open Sys2Proof.Machine

/-- Settles O48, by the three cases of the command rule. -/
theorem commandRuleAndRailState : Obligations.CommandRuleAndRailState := by
  intro s v
  dsimp only
  have hrail := s.reevaluate_rail v
  have hown : (s.reevaluate v).rail v = (s.rail v).reevaluated (s.requiredCode v) (s.allParked v) := by
    rw [hrail, if_pos rfl]
    exact s.reevaluated_eq_rail v
  refine ⟨fun w hw => by rw [hrail, if_neg hw], ?frame, fun hfaulted => ?faulted, fun hfree => ?free⟩
  case frame => rw [State.reevaluate_eq]; rfl
  case faulted =>
    rw [hown, Rail.reevaluated_of_faulted hfaulted]
    exact ⟨rfl, by rw [State.reevaluate_of_faulted hfaulted]; rfl⟩
  case free =>
    rw [Rail.reevaluated_of_free hfree] at hown
    rw [hown]
    refine ⟨?same, fun code tries phase hout => ?outstanding, fun hout => ⟨fun hmet => ?met, fun hunmet => ?unmet⟩⟩
    case same =>
      obtain ⟨code, tries, phase, -, e⟩ | ⟨-, -, e⟩ | ⟨-, -, e⟩ :=
        Rail.commandRule_cases { s.rail v with required := s.requiredCode v } <;> rw [e]
    case outstanding =>
      rw [Rail.commandRule_outstanding (r := { s.rail v with required := s.requiredCode v }) hout]
      have hcode : (s.rail v).command.code? = some code := by rw [hout]; rfl
      exact ⟨rfl, fun h => Rail.ordinaryState_raising hcode h _, fun h => Rail.ordinaryState_lowering hcode h _⟩
    case met =>
      rw [Rail.commandRule_met (r := { s.rail v with required := s.requiredCode v }) hout hmet]
      have hstate := Rail.ordinaryState_idle (r := { s.rail v with required := s.requiredCode v, command := .none }) rfl
        (s.allParked v)
      rw [← State.allParked_iff]
      refine ⟨rfl, ?_, ?_⟩ <;> dsimp only <;> rw [hstate]
      · split
        · next h => exact iff_of_true rfl ⟨h.2, h.1⟩
        · next h => exact iff_of_false nofun fun ⟨ha, hb⟩ => h ⟨hb, ha⟩
      · split <;> simp
    case unmet =>
      rw [Rail.commandRule_unmet (r := { s.rail v with required := s.requiredCode v }) hout hunmet]
      exact ⟨rfl,
        fun h => Rail.ordinaryState_raising (r := { s.rail v with
          required := s.requiredCode v, command := .queued (s.requiredCode v) }) rfl h (s.allParked v),
        fun h => Rail.ordinaryState_lowering (r := { s.rail v with
          required := s.requiredCode v, command := .queued (s.requiredCode v) }) rfl h (s.allParked v)⟩

/-- Settles O49: the rotation where the link is free, and the sending of the chosen rail's code. -/
theorem linkServesTheRotation : Obligations.LinkServesTheRotation := by
  refine ⟨fun s hnone => ⟨fun hfree => ?choice, fun hhold => ?hold⟩, fun s v code hfree helected hqueued => ?sending⟩
  case choice =>
    have hchoice := State.chooseRail_free hfree hnone
    rw [hchoice]
    exact ⟨State.nextWaiting_eq_none, fun v hv => ⟨State.waiting_of_nextWaiting hv, fun w hw =>
      State.nextWaiting_first hv hw⟩, rfl⟩
  case hold =>
    rw [exec_resetHoldEnd, execResetHoldEnd]
    cases h : s.link.resetHold with
    | none => exact absurd h hhold
    | some _ => rfl
  case sending =>
    have hnote := State.noteAssured_eq v s (s.sent v code)
    have hrail (w : RailId) : (State.noteAssured v s (s.sent v code)).rail w = (s.sent v code).rail w := by
      rw [hnote]; rfl
    have hhold : s.link.resetHold = none := by
      simp only [State.linkBusy, Bool.or_eq_false_iff, Option.isSome_eq_false_iff, Option.isNone_iff_eq_none] at hfree
      exact hfree.2
    have hbefore : s.assured v = (s.rail v).confirmed :=
      Rail.assured_of_not_outstanding fun c tries phase h => nomatch h.symm.trans hqueued
    have hafter : (s.sent v code).assured v = if code < (s.rail v).confirmed then code else (s.rail v).confirmed := by
      rw [State.assured, State.sent_rail, if_pos rfl]
      exact Rail.assured_outstanding _ _ _ _
    refine ⟨_, by rw [exec_linkSend, execLinkSend_sends hfree helected hqueued], ?_, fun w hw => ?_, ?_, ?_, fun d => ?_⟩
    · rw [hrail, State.sent_rail, if_pos rfl]
    · rw [hrail, State.sent_rail, if_neg hw]
    · rw [hnote, State.sent, State.sendFrame, ← commandFrame_eq, ← hhold]
      rfl
    · rw [hnote]; rfl
    · rw [State.noteAssured_domain, hbefore, hafter]
      have hlower : ((s.rail v).confirmed != if code < (s.rail v).confirmed then code else (s.rail v).confirmed) =
          decide (code < (s.rail v).confirmed) := by
        split
        · next h => simp only [h, decide_true, bne_iff_ne]; bv_omega
        · next h => simp [h]
      rw [hlower]
      rfl

/-- Settles O50, by what the reply byte carries, whether the transfer is wanted, and the number of the try. -/
theorem repliesAndTimeoutsEndATry : Obligations.RepliesAndTimeoutsEndATry := by
  refine ⟨fun s reply pg h => by rw [exec_regulatorReply, execRegulatorReply_dropped h], fun s x reply pg hx htimer => ?_⟩
  dsimp only
  refine ⟨fun hmark hrail hbit => ?byReply, fun hout => ?disregarded, fun hwanted hone hout => ?again,
    fun hwanted htwo => ?fails⟩
  case byReply =>
    rw [exec_regulatorReply, execRegulatorReply_taken pg hx hmark hrail hbit]
    have houtcome (hwanted : x.disregarded = false) (ack : Bool) : (s.samplePg x.rail pg).endTransfer.outcome x ack =
        if ack then (s.samplePg x.rail pg).endTransfer.accepted x.rail x.code x.tries
        else (s.samplePg x.rail pg).endTransfer.tryFails x .nak := if_neg (by rw [hwanted]; nofun)
    refine ⟨fun hout => ?_, fun hwanted hack => ⟨fun hraise hassured => ?_, fun hlower hpg => ?_, fun hlower hpg => ?_⟩,
      fun hwanted hnak => ⟨fun hone hout => ?_, fun htwo => ?_⟩⟩
    · rw [State.outcome, if_pos hout, State.noteAssured_same (by rw [State.chooseRail_assured]; rfl)]
      rfl
    · rw [houtcome hwanted, if_pos hack, State.accepted_raise (s := (s.samplePg x.rail pg).endTransfer) hraise, State.noteAssured_same]
      · rfl
      · rw [State.chooseRail_assured]
        exact hassured.trans (State.setRail_assured_raise (s := (s.samplePg x.rail pg).endTransfer) hraise).symm
    · rw [houtcome hwanted, if_pos hack, State.accepted_lower (s := (s.samplePg x.rail pg).endTransfer) hlower,
        State.outcomeByPg_high (s := (s.samplePg x.rail pg).endTransfer) ((s.samplePg_pg x.rail pg).trans hpg)]
      rfl
    · rw [houtcome hwanted, if_pos hack, State.accepted_lower (s := (s.samplePg x.rail pg).endTransfer) hlower,
        State.outcomeByPg_low (s := (s.samplePg x.rail pg).endTransfer) ((s.samplePg_pg x.rail pg).trans hpg)]
      rfl
    · rw [houtcome hwanted, hnak, if_neg nofun, State.tryFails_one hone, State.noteAssured_same]
      · rfl
      · exact State.retried_assured (s := (s.samplePg x.rail pg).endTransfer) hout
    · rw [houtcome hwanted, hnak, if_neg nofun, State.tryFails_two htwo]
      rfl
  case disregarded =>
    rw [exec_replyTimeout, execReplyTimeout_taken hx htimer, if_pos hout,
      State.noteAssured_same (by rw [State.chooseRail_assured]; rfl)]
    rfl
  case again =>
    rw [exec_replyTimeout, execReplyTimeout_taken hx htimer, if_neg (by rw [hwanted]; nofun), State.tryFails_one hone,
      State.noteAssured_same]
    · rfl
    · exact State.retried_assured (s := s.endTransfer) hout
  case fails =>
    rw [exec_replyTimeout, execReplyTimeout_taken hx htimer, if_neg (by rw [hwanted]; nofun), State.tryFails_two htwo]
    rfl

end Sys2Proof.Rails
end

section
/-! PROOFS. Rail faults: entry to FALLBACK and to SHUTDOWN, what they leave of the rail, its domains and their records, and
with that the falls of PG. -/

-- The proofs are elaborated one after another: side by side they would exceed the memory that the check allows.
set_option Elab.async false

namespace Sys2Proof.Machine

variable {s t u : State} {v : RailId}

/-! ### The domains of a rail leave the channel -/

theorem State.parkWithout_congr {out out' : DomainId → Prop} [DecidablePred out] [DecidablePred out']
    (hpark : t.park = s.park) (hpins : t.pins = s.pins) (h : ∀ e, out e ↔ out' e) :
    t.parkWithout out = s.parkWithout out' := by
  simp only [State.parkWithout, hpark, hpins, h]

/-- The notices of a fault of rail v, behind that of the rail itself (R39, R125, R131). -/
def State.faultNotices (s : State) (v : RailId) (n : Notice) : List (PortId × Notice) :=
  (supervisor, n) :: (s.mapped v).flatMap s.heldNotices

theorem State.faultNotices_eq (s : State) (v : RailId) (n : Notice) : s.faultNotices v n =
    (supervisor, n) :: (s.mapped v).flatMap fun d =>
      ((List.finRange 9).filter fun p => s.live.any fun x => x.2.domain = d ∧ x.2.owner = p).map
        fun p => (p, .domainHeld d) := by
  rw [State.faultNotices, funext s.heldNotices_eq]

theorem State.raise_faultNotices (s : State) (v : RailId) (n : Notice) :
    s.raise (s.faultNotices v n) = { s with raised := s.raised ++ [s.faultNotices v n] } :=
  if_neg (List.cons_ne_nil _ _)

/-! ### Entry to FALLBACK (R125 to R129) -/

/-- The rail as it enters FALLBACK (R125). -/
def Rail.falling (r : Rail) (cause : RailCause) : Rail :=
  { r with state := .fallback, cause := cause, command := .none }

/-- The state before the domains are frozen: the rail in FALLBACK without its command, its transfer disregarded, its
domains out of the channel, and the notices raised. -/
def State.falling (s : State) (v : RailId) (cause : RailCause) : State :=
  let stopped := (s.setRail v ((s.rail v).falling cause)).disregard v
  { stopped.chooseRail with
    park := s.parkWithout fun e => s.railOf e = v
    raised := s.raised ++ [s.faultNotices v (.railFault v)] }

theorem State.falling_eq (s : State) (v : RailId) (cause : RailCause) : s.falling v cause = { s with
    rails := (s.setRail v ((s.rail v).falling cause)).rails
    link := (s.falling v cause).link
    park := s.parkWithout fun e => s.railOf e = v
    raised := s.raised ++ [s.faultNotices v (.railFault v)] } := by
  unfold State.falling
  dsimp only
  rw [State.chooseRail_eq, State.disregard_eq]
  rfl

theorem State.falling_transfer (s : State) (v : RailId) (cause : RailCause) : (s.falling v cause).link.transfer =
    s.link.transfer.map fun x => if x.rail = v then { x with disregarded := true } else x := by
  unfold State.falling
  dsimp only
  rw [State.chooseRail_eq, State.disregard_eq]
  rfl

theorem State.falling_rail (s : State) (v : RailId) (cause : RailCause) (w : RailId) : (s.falling v cause).rail w =
    if w = v then (s.rail v).falling cause else s.rail w := by
  rw [State.falling_eq]
  exact s.setRail_rail v w _

/-- The domains frozen, and their records HELD. -/
def State.frozenRail (s : State) (v : RailId) (cause : RailCause) : State :=
  (s.mapped v).foldl State.freeze (s.falling v cause)

theorem State.enterFallback_eq (s : State) (v : RailId) (cause : RailCause) :
    s.enterFallback v cause = ((s.frozenRail v cause).reevaluate v).fallbackCheck v := by
  obtain ⟨rails, link, hchosen⟩ : ∃ rails link, ((s.setRail v ((s.rail v).falling cause)).disregard v).chooseRail =
      { s with rails := rails, link := link } := by
    rw [State.chooseRail_eq, State.disregard_eq]
    exact ⟨_, _, rfl⟩
  rw [Rail.falling] at hchosen
  unfold State.enterFallback State.frozenRail State.falling Rail.falling
  dsimp only
  rw [hchosen]
  have hleft : ((s.mapped v).foldl State.leaveConsent { s with rails := rails, link := link }).serveConsent =
      { s with rails := rails, link := link, park := s.parkWithout fun e => s.railOf e = v } := by
    rw [State.serveConsent_frame, State.leaveAll_serve_park, State.leaveAll_eq]
    have hpark := State.parkWithout_congr (s := s) (t := { s with rails := rails, link := link }) rfl rfl
      fun e => State.mem_mapped (s := s) (v := v) (d := e)
    rw [hpark]
  have hmapped : State.mapped { s with rails := rails, link := link } v = s.mapped v := rfl
  rw [hmapped, hleft]
  have hraise := State.raise_faultNotices
    { s with rails := rails, link := link, park := s.parkWithout fun e => s.railOf e = v } v (.railFault v)
  rw [State.faultNotices] at hraise
  have hsame : State.mapped { s with rails := rails, link := link, park := s.parkWithout fun e => s.railOf e = v } v =
    s.mapped v := rfl
  rw [hsame] at hraise
  rw [hraise]
  rfl

section Fallback
variable (s v) (cause : RailCause)

theorem State.frozenRail_hold :
    s.frozenRail v cause = { s.falling v cause with
      domains := (s.frozenRail v cause).domains, records := (s.frozenRail v cause).records } ∧
    (∀ e, (s.frozenRail v cause).domain e =
      if s.railOf e = v then (s.domain e).afterFreeze (s.setup e) else s.domain e) ∧
    ∀ h, (s.frozenRail v cause).record h =
      (s.record h).map fun r => if s.railOf r.domain = v then { r with status := .held } else r := by
  obtain ⟨hrest, hdomains, hrecords⟩ := State.foldl_hold (g := fun x c => c.afterFreeze x)
    (fun u e => u.freeze_local e) (s.mapped_nodup v) (s.falling v cause)
  have hdomain (e : DomainId) : (s.falling v cause).domain e = s.domain e := by rw [State.falling_eq]; rfl
  have hrecord (h : Handle) : (s.falling v cause).record h = s.record h := by rw [State.falling_eq]; rfl
  have hsetup (e : DomainId) : (s.falling v cause).setup e = s.setup e := by rw [State.falling_eq]; rfl
  refine ⟨hrest, fun e => (hdomains e).trans ?_, fun h => (hrecords h).trans ?_⟩
  · rw [hdomain, hsetup]
    simp only [State.mem_mapped]
  · rw [hrecord]
    simp only [State.mem_mapped]

theorem State.frozenRail_rail (w : RailId) : (s.frozenRail v cause).rail w =
    if w = v then (s.rail v).falling cause else s.rail w := by
  rw [(s.frozenRail_hold v cause).1]
  exact s.falling_rail v cause w

/-- The rail with its required code worked out afresh. -/
def State.requiredAfresh (u : State) (v : RailId) : State :=
  u.setRail v { u.rail v with required := u.requiredCode v }

theorem State.enterFallback_check : s.enterFallback v cause =
    ((s.frozenRail v cause).requiredAfresh v).fallbackCheck v := by
  rw [State.enterFallback_eq, State.reevaluate_of_faulted]
  · rfl
  · rw [State.frozenRail_rail, if_pos rfl]
    rfl

/-- A rail that enters FALLBACK: what changes of the part. -/
theorem State.enterFallback_frame : s.enterFallback v cause = { s with
    rails := (s.enterFallback v cause).rails, link := (s.enterFallback v cause).link
    park := s.parkWithout fun e => s.railOf e = v
    raised := s.raised ++ [s.faultNotices v (.railFault v)]
    domains := (s.enterFallback v cause).domains, records := (s.enterFallback v cause).records } := by
  have hrest := (s.frozenRail_hold v cause).1
  rw [State.falling_eq] at hrest
  rw [State.enterFallback_check, State.fallbackCheck_frame, State.requiredAfresh, hrest]
  rfl

theorem State.enterFallback_domain (e : DomainId) : (s.enterFallback v cause).domain e =
    if s.railOf e = v then (s.domain e).afterFreeze (s.setup e) else s.domain e := by
  rw [State.enterFallback_check, State.fallbackCheck_domain]
  exact (s.frozenRail_hold v cause).2.1 e

theorem State.enterFallback_record (h : Handle) : (s.enterFallback v cause).record h =
    (s.record h).map fun r => if s.railOf r.domain = v then { r with status := .held } else r := by
  rw [State.enterFallback_check, State.fallbackCheck_frame]
  exact (s.frozenRail_hold v cause).2.2 h

theorem State.enterFallback_transfer : (s.enterFallback v cause).link.transfer =
    s.link.transfer.map fun x => if x.rail = v then { x with disregarded := true } else x := by
  rw [State.enterFallback_check, State.fallbackCheck_frame, State.requiredAfresh, (s.frozenRail_hold v cause).1]
  exact s.falling_transfer v cause

theorem State.fallbackCheck_rail_ne (u : State) {w : RailId} (hw : w ≠ v) : (u.fallbackCheck v).rail w = u.rail w := by
  rw [State.fallbackCheck_eq]
  split
  · rw [State.chooseRail_rail, State.setRail_rail, if_neg hw]
  · rfl

theorem State.enterFallback_rail_ne {w : RailId} (hw : w ≠ v) : (s.enterFallback v cause).rail w = s.rail w := by
  rw [State.enterFallback_check, State.fallbackCheck_rail_ne v _ hw, State.requiredAfresh, State.setRail_rail, if_neg hw,
    State.frozenRail_rail, if_neg hw]

/-- The rail itself: its fallback code is queued just where all its domains are frozen in place (R129). -/
theorem State.enterFallback_rail : ∃ required, (s.enterFallback v cause).rail v = { s.rail v with
    state := .fallback, cause := cause, required := required
    command := if (∀ e, s.railOf e = v → ((s.enterFallback v cause).domain e).inPlace = true) then
      .queued (s.rail v).fallback else .none } := by
  have hrail : ((s.frozenRail v cause).requiredAfresh v).rail v = { (s.rail v).falling cause with
      required := (s.frozenRail v cause).requiredCode v } := by
    rw [State.requiredAfresh, State.setRail_rail_self, State.frozenRail_rail, if_pos rfl]
  have hdomain (e : DomainId) : ((s.frozenRail v cause).requiredAfresh v).domain e = (s.enterFallback v cause).domain e :=
    ((s.frozenRail_hold v cause).2.1 e).trans (s.enterFallback_domain v cause e).symm
  have hrailOf (e : DomainId) : ((s.frozenRail v cause).requiredAfresh v).railOf e = s.railOf e := by
    rw [State.requiredAfresh, (s.frozenRail_hold v cause).1, State.falling_eq]
    rfl
  refine ⟨(s.frozenRail v cause).requiredCode v, ?_⟩
  have hcheck := ((s.frozenRail v cause).requiredAfresh v).fallbackCheck_eq v
  simp only [hrail, hdomain, hrailOf] at hcheck
  by_cases hplace : ∀ e, s.railOf e = v → ((s.enterFallback v cause).domain e).inPlace = true
  · rw [if_pos hplace, State.enterFallback_check, hcheck, if_pos ⟨rfl, rfl, hplace⟩, State.chooseRail_rail,
      State.setRail_rail_self]
    rfl
  · rw [if_neg hplace, State.enterFallback_check, hcheck, if_neg fun h => hplace h.2.2, hrail]
    rfl

end Fallback

/-! ### SHUTDOWN (R131) -/

/-- The rail as it is shut down. -/
def Rail.shut (r : Rail) (cause : RailCause) : Rail := { r with state := .shutdown, cause := cause, command := .none }

/-- A domain as it is switched off. -/
def Domain.off (c : Domain) : Domain := { c with
  state := .off, settled := false, step := none, lockTimer := none, gateTimer := none, quietTimer := none
  need := none, cause := .rail, gated := true }

section Shutdown
variable (s v) (cause : RailCause)

/-- The state before the domains are switched off. -/
def State.shutting : State :=
  { (s.setRail v ((s.rail v).shut cause)).chooseRail with raised := s.raised ++ [s.faultNotices v (.railShutdown v)] }

theorem State.shutting_eq : s.shutting v cause = { s with
    rails := (s.setRail v ((s.rail v).shut cause)).rails
    link := { s.link with elected := (s.shutting v cause).link.elected }
    raised := s.raised ++ [s.faultNotices v (.railShutdown v)] } := by
  unfold State.shutting
  rw [State.chooseRail_eq]
  rfl

/-- The domains switched off, and their records HELD. -/
def State.switchedOff : State := (s.mapped v).foldl State.switchOff (s.shutting v cause)

theorem State.enterShutdown_eq : s.enterShutdown v cause = (s.switchedOff v cause).reevaluate v := by
  obtain ⟨link, hdown⟩ : ∃ link, (s.setRail v ((s.rail v).shut cause)).chooseRail =
      { s.setRail v ((s.rail v).shut cause) with link := link } := ⟨_, State.chooseRail_eq _⟩
  rw [Rail.shut] at hdown
  unfold State.enterShutdown State.switchedOff State.shutting Rail.shut
  dsimp only
  rw [hdown]
  exact congrArg (fun u : State => ((s.mapped v).foldl State.switchOff u).reevaluate v)
    (State.raise_faultNotices { s.setRail v ((s.rail v).shut cause) with link := link } v (.railShutdown v))

theorem State.switchedOff_hold :
    s.switchedOff v cause = { s.shutting v cause with
      domains := (s.switchedOff v cause).domains, records := (s.switchedOff v cause).records } ∧
    (∀ e, (s.switchedOff v cause).domain e = if s.railOf e = v then (s.domain e).off else s.domain e) ∧
    ∀ h, (s.switchedOff v cause).record h =
      (s.record h).map fun r => if s.railOf r.domain = v then { r with status := .held } else r := by
  obtain ⟨hrest, hdomains, hrecords⟩ := State.foldl_hold (g := fun _ c => c.off) (fun u e => u.switchOff_eq e)
    (s.mapped_nodup v) (s.shutting v cause)
  have hdomain (e : DomainId) : (s.shutting v cause).domain e = s.domain e := by rw [State.shutting_eq]; rfl
  have hrecord (h : Handle) : (s.shutting v cause).record h = s.record h := by rw [State.shutting_eq]; rfl
  refine ⟨hrest, fun e => (hdomains e).trans ?_, fun h => (hrecords h).trans ?_⟩
  · rw [hdomain]
    simp only [State.mem_mapped]
  · rw [hrecord]
    simp only [State.mem_mapped]

theorem State.switchedOff_rail (w : RailId) : (s.switchedOff v cause).rail w =
    if w = v then (s.rail v).shut cause else s.rail w := by
  rw [(s.switchedOff_hold v cause).1]
  refine Eq.trans ?_ (s.setRail_rail v w ((s.rail v).shut cause))
  rw [State.shutting_eq]
  rfl

theorem State.enterShutdown_afresh : s.enterShutdown v cause = (s.switchedOff v cause).requiredAfresh v := by
  rw [State.enterShutdown_eq, State.reevaluate_of_faulted]
  · rfl
  · rw [State.switchedOff_rail, if_pos rfl]
    rfl

theorem State.enterShutdown_frame : s.enterShutdown v cause = { s with
    rails := (s.enterShutdown v cause).rails
    link := { s.link with elected := (s.enterShutdown v cause).link.elected }
    raised := s.raised ++ [s.faultNotices v (.railShutdown v)]
    domains := (s.enterShutdown v cause).domains, records := (s.enterShutdown v cause).records } := by
  have hrest := (s.switchedOff_hold v cause).1
  rw [State.shutting_eq] at hrest
  rw [State.enterShutdown_afresh, State.requiredAfresh, hrest]
  rfl

theorem State.enterShutdown_domain (e : DomainId) : (s.enterShutdown v cause).domain e =
    if s.railOf e = v then (s.domain e).off else s.domain e := by
  rw [State.enterShutdown_afresh]
  exact (s.switchedOff_hold v cause).2.1 e

theorem State.enterShutdown_record (h : Handle) : (s.enterShutdown v cause).record h =
    (s.record h).map fun r => if s.railOf r.domain = v then { r with status := .held } else r := by
  rw [State.enterShutdown_afresh]
  exact (s.switchedOff_hold v cause).2.2 h

theorem State.enterShutdown_rail (w : RailId) : ∃ required, (s.enterShutdown v cause).rail w =
    if w = v then { (s.rail v).shut cause with required := required } else s.rail w := by
  refine ⟨(s.switchedOff v cause).requiredCode v, ?_⟩
  rw [State.enterShutdown_afresh, State.requiredAfresh, State.setRail_rail, State.switchedOff_rail, State.switchedOff_rail,
    if_pos rfl]
  split <;> rfl

end Shutdown

/-! ### The freeze of one domain (Table 7-2) -/

section Freeze
variable {c : Domain} (x : Setup)

/-- What every freeze leaves of a domain (R126). -/
def Domain.frozenBy (c : Domain) (need : Option Byte) : Domain := { c with
  state := .frozen, settled := false, quietTimer := none, gateTimer := none, cause := .rail, need := need }

/-- A running domain at its safe level is frozen in place. -/
theorem Domain.afterFreeze_here (hstate : c.state = .steady ∨ c.state = .raising ∨ c.state = .consent)
    (hsafe : c.current = x.config.safe) (hgated : c.gated = false) (hstep : c.step = none) :
    c.afterFreeze x = c.frozenBy (some x.points[x.config.safe].volt) := by
  obtain h | h | h := hstate <;> simp [Domain.afterFreeze, Domain.frozenBy, h, hsafe, hgated, hstep]

/-- Another running domain, and one that a step has left running, steps to its safe level. -/
theorem Domain.afterFreeze_steps (hstate : (c.state = .steady ∨ c.state = .raising ∨ c.state = .consent) ∧
      c.current ≠ x.config.safe ∨ c.state = .stepping ∨ c.state = .waking .clock) (hgated : c.gated = false) :
    c.afterFreeze x = Domain.frozenBy { c with
      step := some x.config.safe, strobe := some (.step x.points[x.config.safe].clock), lockTimer := none }
      (some x.points[x.config.safe].volt) := by
  obtain ⟨h | h | h, hsafe⟩ | h | h := hstate
  all_goals simp [Domain.afterFreeze, Domain.frozenBy, h, hgated]
  all_goals simp [hsafe]

/-- One whose clock is stopped, or not yet started, is left gated. -/
theorem Domain.afterFreeze_gated (hstate : c.state = .waking .gate ∨ c.state = .waking .rail ∨ c.state = .parking ∨
      c.state = .parked) : c.afterFreeze x = Domain.frozenBy { c with gated := true } none := by
  obtain h | h | h | h := hstate <;> simp [Domain.afterFreeze, Domain.frozenBy, h]

/-- A FROZEN one takes the cause. -/
theorem Domain.afterFreeze_frozen (hstate : c.state = .frozen) : c.afterFreeze x =
    c.frozenBy (if c.gated = true then none else some x.points[c.step.getD c.current].volt) := by
  simp [Domain.afterFreeze, Domain.frozenBy, hstate]

end Freeze

/-- A sound domain outside OFF is in one of the four rows of Table 7-2. -/
theorem Domain.MovesSound.freeze_cases {c : Domain} (h : c.MovesSound) (hoff : c.state ≠ .off) (safe : Level) :
    ((c.state = .steady ∨ c.state = .raising ∨ c.state = .consent) ∧ c.current = safe ∧ c.gated = false ∧ c.step = none) ∨
    (((c.state = .steady ∨ c.state = .raising ∨ c.state = .consent) ∧ c.current ≠ safe ∨ c.state = .stepping ∨
      c.state = .waking .clock) ∧ c.gated = false) ∨
    ((c.state = .waking .gate ∨ c.state = .waking .rail ∨ c.state = .parking ∨ c.state = .parked) ∧ c.step = none) ∨
    c.state = .frozen := by
  have hstates := h.step_states
  have hgate : ∀ g ∈ c.state.gate, c.gated = g := fun g hg => h.gated_eq hg
  have hidle (hs : c.state ≠ .stepping ∧ c.state ≠ .waking .clock ∧ c.state ≠ .frozen) : c.step = none := by
    by_contra hne
    obtain e | e | ⟨e, -⟩ := hstates hne
    exacts [hs.1 e, hs.2.1 e, hs.2.2 e]
  by_cases hsafe : c.current = safe <;> cases hstate : c.state with
  | off => exact absurd hstate hoff
  | waking stage => cases stage <;> simp_all [DomainState.gate]
  | _ => simp_all [DomainState.gate]

/-- A sound domain outside OFF is frozen as Table 7-2 gives. -/
theorem State.frozenFrom_of_domain {d : DomainId} (hsound : (s.domain d).MovesSound) (hoff : (s.domain d).state ≠ .off)
    (hdomain : t.domain d = (s.domain d).afterFreeze (s.setup d)) : s.FrozenFrom t d := by
  have hpoint (l : Level) : (s.setup d).points[l].volt = s.code d l := rfl
  obtain ⟨hstate, hsafe, hgated, hstep⟩ | ⟨hstate, hgated⟩ | ⟨hstate, hstep⟩ | hstate :=
    hsound.freeze_cases hoff (s.config d).safe
  · rw [Domain.afterFreeze_here _ hstate hsafe hgated hstep, hpoint] at hdomain
    rw [State.FrozenFrom, hdomain]
    refine ⟨rfl, rfl, rfl, rfl, rfl, rfl, rfl, rfl, rfl, rfl, fun _ _ => ⟨hgated, hstep, rfl⟩, fun h => ?_, fun h => ?_, fun h => ?_⟩
    · obtain ⟨-, h⟩ | h | h := h
      · exact absurd hsafe h
      all_goals simp [h] at hstate
    · obtain h | h | h | h := h <;> simp [h] at hstate
    · simp [h] at hstate
  · rw [Domain.afterFreeze_steps _ hstate hgated, hpoint] at hdomain
    rw [State.FrozenFrom, hdomain]
    refine ⟨rfl, rfl, rfl, rfl, rfl, rfl, rfl, rfl, rfl, rfl, fun h hsafe => ?_, fun _ => ⟨hgated, rfl, rfl, rfl, rfl⟩, fun h => ?_,
      fun h => ?_⟩
    · obtain ⟨-, hne⟩ | e | e := hstate
      · exact absurd hsafe hne
      all_goals simp [e] at h
    · obtain h | h | h | h := h <;> simp [h] at hstate
    · simp [h] at hstate
  · rw [Domain.afterFreeze_gated _ hstate] at hdomain
    rw [State.FrozenFrom, hdomain]
    refine ⟨rfl, rfl, rfl, rfl, rfl, rfl, rfl, rfl, rfl, rfl, fun h => ?_, fun h => ?_, fun _ => ⟨rfl, hstep, rfl⟩, fun h => ?_⟩
    · obtain e | e | e | e := hstate <;> simp [e] at h
    · obtain e | e | e | e := hstate <;> simp [e] at h
    · simp [h] at hstate
  · rw [Domain.afterFreeze_frozen _ hstate] at hdomain
    rw [State.FrozenFrom, hdomain]
    exact ⟨rfl, rfl, rfl, rfl, rfl, rfl, rfl, rfl, rfl, rfl, by simp [hstate], by simp [hstate], by simp [hstate],
      fun _ => ⟨rfl, rfl⟩⟩

end Sys2Proof.Machine

/-! ### The statements -/

namespace Sys2Proof.Faults

open Sys2Proof.Machine

/-- Settles O52: the operations of the entry touch one block each, and the freeze one domain each. -/
theorem fallbackFreezesTheRail : Obligations.FallbackFreezesTheRail := by
  intro s v cause hsound hfree
  have hframe := s.enterFallback_frame v cause
  have hdomain := s.enterFallback_domain v cause
  have hpark : (s.enterFallback v cause).park = s.parkWithout fun e => s.railOf e = v := by rw [hframe]
  have hraised : (s.enterFallback v cause).raised = s.raised ++ [s.faultNotices v (.railFault v)] := by rw [hframe]
  obtain ⟨required, hrail⟩ := s.enterFallback_rail v cause
  dsimp only
  refine ⟨by rw [hrail], by rw [hrail], by rw [hrail], by rw [hrail], by rw [hrail],
    fun w hw => s.enterFallback_rail_ne v cause hw, fun d hd => ⟨?frozen, ?left⟩, hpark,
    fun d hd => (hdomain d).trans (if_neg hd), s.enterFallback_record v cause, fun x hx => ?transfer, ?raised, ?frame⟩
  case frozen =>
    have hoff : (s.domain d).state ≠ .off := by
      rw [Ne, ← (hsound.faults.1 d).2.1, hd]
      exact (Rail.not_faulted.1 hfree).2.2
    exact State.frozenFrom_of_domain (hsound.moves d).1 hoff ((hdomain d).trans (if_pos hd))
  case left =>
    rw [hpark]
    exact State.parkWithout_left (out := fun e => s.railOf e = v) hd
  case transfer =>
    rw [State.enterFallback_transfer, show s.link.transfer = some x from hx]
    rfl
  case raised => rw [hraised, State.faultNotices_eq]
  case frame =>
    rw [hpark, hraised]
    exact hframe

/-- Settles O53, from what the operations of the event leave. -/
theorem shutdownSwitchesTheRailOff : Obligations.ShutdownSwitchesTheRailOff := by
  intro s v cause
  have hframe := s.enterShutdown_frame v cause
  have hdomain := s.enterShutdown_domain v cause
  have hraised : (s.enterShutdown v cause).raised = s.raised ++ [s.faultNotices v (.railShutdown v)] := by rw [hframe]
  obtain ⟨required, hrail⟩ := s.enterShutdown_rail v cause v
  rw [if_pos rfl] at hrail
  refine ⟨fun h => if_pos h, fun h => if_neg (Rail.not_faulted.1 h).1, ?_⟩
  dsimp only
  refine ⟨?enable, by rw [hrail]; rfl, by rw [hrail]; rfl, by rw [hrail]; rfl, fun w hw => ?others, by rw [hrail]; rfl, ?frame,
    ⟨_, by rw [hframe]⟩, fun d hd => (hdomain d).trans (if_pos hd), fun d hd => (hdomain d).trans (if_neg hd),
    s.enterShutdown_record v cause, ?raised⟩
  case enable =>
    rw [State.railEnable, hrail]
    rfl
  case others =>
    obtain ⟨required, hother⟩ := s.enterShutdown_rail v cause w
    rw [hother, if_neg hw]
  case frame =>
    rw [hraised]
    rw [hframe]
  case raised => rw [hraised, State.faultNotices_eq]

end Sys2Proof.Faults

namespace Sys2Proof.Rails

open Sys2Proof.Machine

/-- Settles O51: PG decides at the deadline, and a fall is news of the rail only where no command is outstanding. -/
theorem pgDecidesAtDeadlinesAndFalls : Obligations.PgDecidesAtDeadlinesAndFalls := by
  refine ⟨fun s v pg code tries deadline hout => ?deadline, fun s v => ?fall⟩
  case deadline =>
    have hsimilar := s.commandSucceeds_similar v code
    have hexec := execSettleDeadline_taken pg hout
    rw [exec_settleDeadline, hexec]
    refine ⟨fun hpg => ?_, fun hpg => ?_, fun hraise hpg => ?_, hsimilar.confirmed, fun hstate => ?_, fun hfree => ?_⟩
    · rw [State.outcomeByPg_high ((s.samplePg_pg v pg).trans hpg)]
    · rw [State.outcomeByPg_low ((s.samplePg_pg v pg).trans hpg)]
    · refine ⟨_, rfl, fun d => ?_⟩
      rw [State.outcomeByPg_high ((s.samplePg_pg v pg).trans hpg)]
      refine State.commandSucceeds_news (u := s) (s.samplePg v pg) v d ?_
      rw [State.assured, Rail.assured_of_outstanding hout, lowerCode_eq]
      split <;> bv_omega
    · have hheld : ((s.rail v).succeeded code).state = .held := if_pos hstate
      exact ⟨hsimilar.held.2 hheld, hsimilar.command (by simp [Rail.faulted, hheld])⟩
    · have hsame : (s.rail v).succeeded code = { s.rail v with confirmed := code, command := .none } := by
        rw [Rail.succeeded, if_neg (Rail.not_faulted.1 hfree).1]
      rw [State.commandSucceeds_eq, hsame]
  case fall =>
    rw [exec_pgFall]
    dsimp only
    refine ⟨fun hfree hnone => ?_, fun hfree hout => ?_, fun h => execPgFall_ignored h, fun hheld hnone => ?_⟩
    · have hout : ¬(s.rail v).hasOutstanding = true := by
        rw [Rail.hasOutstanding_iff]
        rintro ⟨code, tries, phase, h⟩
        exact hnone code tries phase h
      obtain ⟨required, hrail⟩ := (s.samplePg v false).enterFallback_rail v .pgFall
      rw [execPgFall_free hfree, if_neg hout, State.noteAssured_same]
      rw [State.assured, State.assured, hrail, Rail.assured_of_not_outstanding hnone, Rail.assured_of_not_outstanding]
      · rfl
      · dsimp only
        split <;> nofun
    · rw [execPgFall_free hfree, if_pos (Rail.hasOutstanding_iff.2 hout)]
    · obtain ⟨required, hrail⟩ := (s.samplePg v false).enterShutdown_rail v .pgFall v
      rw [execPgFall_held hheld, State.noteAssured_same]
      rw [State.assured, State.assured, hrail, if_pos rfl, Rail.assured_of_not_outstanding (by rw [hnone]; nofun),
        Rail.assured_of_not_outstanding (by rw [Rail.shut]; nofun)]
      rfl

end Sys2Proof.Rails
end

section
/-! PROOFS. The release of a FROZEN domain (R134, R135), alone and with the other domains of its rail, which take it in an
order that is free; and with that the two forms of CLEAR-FAULT. -/

-- The proofs are elaborated one after another: side by side they would exceed the memory that the check allows.
set_option Elab.async false

namespace Sys2Proof.Machine

variable {s t u w : State} {d : DomainId} {v : RailId}

/-! ### The release of one domain -/

/-- The domain without its fault, resolved, its records no longer HELD. -/
def State.unfrozen (s : State) (d : DomainId) : State :=
  ((s.setDomain d { s.domain d with cause := .none }).resolve d).unholdRecords d

/-- The state before the end of the release. -/
def State.released (s : State) (d : DomainId) : State :=
  let t := s.unfrozen d
  if (t.domain d).gated then
    if t.wanted d || !(t.config d).park then t.beginWake d else t.enterParked d
  else (t.setDomain d { t.domain d with state := .steady }).plan d

theorem State.releaseDomain_eq (s : State) (d : DomainId) : s.releaseDomain d = (s.released d).closeDomain d := rfl

theorem State.DomainMove.unfrozen (s : State) (d : DomainId) : s.DomainMove d (s.unfrozen d) :=
  ((State.DomainMove.setDomain s d (c := { s.domain d with cause := .none }) rfl rfl).trans (.resolve _ d)).trans
    (.unholdRecords _ d)

theorem State.DomainMove.released (s : State) (d : DomainId) : s.DomainMove d (s.released d) := by
  refine (State.DomainMove.unfrozen s d).trans (.ite (.ite (.beginWake _ d) (.enterParked _ d)) ?_)
  exact (State.DomainMove.setDomain _ d (c := { (s.unfrozen d).domain d with state := .steady }) rfl rfl).trans (.plan _ d)

theorem State.DomainMove.releaseDomain (s : State) (d : DomainId) : s.DomainMove d (s.releaseDomain d) :=
  (State.DomainMove.released s d).trans (.closeDomain _ d)

theorem State.unfrozen_domain (s : State) (d : DomainId) : (s.unfrozen d).domain d = { s.domain d with
    cause := .none, target := (s.resolution d).1, source := (s.resolution d).2 } := by
  have hresolution : (s.setDomain d { s.domain d with cause := .none }).resolution d = s.resolution d :=
    (State.DomainFrame.setDomain s (c := { s.domain d with cause := .none }) rfl rfl).resolution d
  have hresolve := (s.setDomain d { s.domain d with cause := .none }).resolve_domain d
  rw [hresolution, State.setDomain_domain_self] at hresolve
  exact hresolve

theorem State.unfrozen_record (s : State) (d : DomainId) (h : Handle) : (s.unfrozen d).record h =
    (s.record h).map fun r => if r.domain = d then r.unhold else r := State.mapRecordsOn_record ..

/-- A running domain back in STEADY, before it plans. -/
def State.thawed (s : State) (d : DomainId) : State :=
  (s.unfrozen d).setDomain d { (s.unfrozen d).domain d with state := .steady }

theorem State.thawed_domain (s : State) (d : DomainId) : (s.thawed d).domain d = { s.domain d with
    cause := .none, target := (s.resolution d).1, source := (s.resolution d).2, state := .steady } := by
  rw [State.thawed, State.setDomain_domain_self, State.unfrozen_domain]

theorem State.released_runs (hgated : (s.domain d).gated = false) : s.released d = (s.thawed d).plan d :=
  if_neg (by rw [State.unfrozen_domain]; simp [hgated])

theorem State.released_gated (hgated : (s.domain d).gated = true) : s.released d =
    if s.wanted d || !(s.config d).park then (s.unfrozen d).beginWake d else (s.unfrozen d).enterParked d := by
  have hframe := (State.DomainMove.unfrozen s d).frame
  rw [← hframe.wanted d, ← hframe.config d]
  exact if_pos (by rw [State.unfrozen_domain]; exact hgated)

theorem State.released_wakes (hgated : (s.domain d).gated = true) (h : s.wanted d = true ∨ (s.config d).park = false) :
    s.released d = (s.unfrozen d).beginWake d := by
  rw [State.released_gated hgated, if_pos (by simpa using h)]

theorem State.released_parks (hgated : (s.domain d).gated = true) (hwanted : s.wanted d = false)
    (hpark : (s.config d).park = true) : s.released d = (s.unfrozen d).enterParked d := by
  rw [State.released_gated hgated, if_neg (by simp [hwanted, hpark])]

/-! ### Records no longer HELD -/

theorem Record.unhold_eq (r : Record) : r.unhold = if r.status = .held then { r with status := .pending } else r := rfl

theorem Record.unhold_domain (r : Record) : r.unhold.domain = r.domain := by
  rw [Record.unhold_eq]; split <;> rfl

theorem Record.unhold_status_ne (r : Record) : r.unhold.status ≠ .held := by
  rw [Record.unhold_eq]
  split
  · nofun
  · assumption

/-- An evaluation does not read the status. -/
theorem Record.unhold_evaluatedAt (r : Record) (current : Level) : r.unhold.evaluatedAt current = r.evaluatedAt current := by
  rw [Record.unhold_eq]; split <;> rfl

theorem Record.unhold_evaluatedParked {r : Record} (h : r.cls = .cap) : r.unhold.evaluatedParked = r.evaluatedParked := by
  rw [Record.unhold_eq]
  split
  · rw [Record.evaluatedParked, Record.evaluatedParked, if_pos h, if_pos h]
  · rfl

theorem State.live_mapRecordsOn (s : State) (d : DomainId) (f : Record → Record) : (s.mapRecordsOn d f).live =
    s.live.map fun x => (x.1, if x.2.domain = d then f x.2 else x.2) := by
  simp only [State.live, State.mapRecordsOn_record, List.map_filterMap, Option.map_map]
  rfl

theorem State.unfrozen_live (s : State) (d : DomainId) : (s.unfrozen d).live =
    s.live.map fun x => (x.1, if x.2.domain = d then x.2.unhold else x.2) :=
  State.live_mapRecordsOn ((s.setDomain d { s.domain d with cause := .none }).resolve d) d Record.unhold

/-- The notices of an evaluation do not read the status. -/
theorem State.unfrozen_settledNotices (s : State) (d : DomainId) (current : Level) (p : PortId) :
    (s.unfrozen d).settledNotices d current p = s.settledNotices d current p := by
  rw [State.settledNotices, State.unfrozen_live, List.filterMap_map]
  refine List.filterMap_congr fun x _ => ?_
  by_cases hd : x.2.domain = d
  · have h := x.2.unhold_evaluatedAt current
    simp only [Function.comp, if_pos hd, h]
    rw [Record.unhold_eq]
    split <;> rfl
  · simp only [Function.comp, if_neg hd]

theorem State.unfrozen_parkedNotices (s : State) (d : DomainId) (p : PortId) :
    (s.unfrozen d).parkedNotices d p = s.parkedNotices d p := by
  rw [State.parkedNotices, State.unfrozen_live, List.filterMap_map, State.unfrozen_domain]
  refine List.filterMap_congr fun x _ => ?_
  by_cases hd : x.2.domain = d
  · simp only [Function.comp, if_pos hd]
    rw [Record.unhold_eq]
    split <;> rfl
  · simp only [Function.comp, if_neg hd]

/-! ### Where a release leads -/

/-- Domain d of `t` is where its release puts it, seen from `s` (R134). -/
structure State.ReleasesTo (s t : State) (d : DomainId) : Prop where
  cause : (t.domain d).cause = .none
  target : (t.domain d).target = (s.resolution d).1
  source : (t.domain d).source = (s.resolution d).2
  current : (t.domain d).current = (s.domain d).current
  runs : (s.domain d).gated = false → s.PlansTo t d (s.domain d).current (s.resolution d).1
  wakes : (s.domain d).gated = true → s.wanted d = true ∨ (s.config d).park = false →
    s.WakesTo t d (s.resolution d).1 ∧
      ∀ h, ∀ r ∈ s.record h, r.domain = d → r.status = .held → ∃ q, t.record h = some q ∧ q.status = .pending
  parks : (s.domain d).gated = true → s.wanted d = false → (s.config d).park = true →
    (t.domain d).state = .parked ∧ (t.domain d).gated = true ∧ (t.domain d).need = none ∧
      ∀ h, ∀ r ∈ s.record h, r.domain = d → r.cls = .cap → t.record h = some r.evaluatedParked

/-- A running domain plans, seen from before its release. -/
theorem State.released_plansTo (hstate : (s.domain d).state = .frozen) (hgated : (s.domain d).gated = false) :
    s.PlansTo ((s.released d).finish d) d (s.domain d).current (s.resolution d).1 := by
  have hdomain := s.thawed_domain d
  have hrecord (h : Handle) (r : Record) (hr : r ∈ s.record h) (hd : r.domain = d) :
      (s.unfrozen d).record h = some r.unhold :=
    (s.unfrozen_record d h).trans ((congrArg (Option.map _) hr).trans (congrArg some (if_pos hd)))
  have hleft (r : Record) (hd : r.domain = d) : s.leftStatus r = .pending :=
    if_neg fun h => h.2 (hd ▸ hstate)
  have hunheld (r : Record) : (s.thawed d).leftStatus r.unhold = .pending := if_neg fun h => r.unhold_status_ne h.1
  have hplans := State.plan_finish_plansTo (s := s.thawed d) (d := d) (by rw [hdomain]; nofun)
  rw [hdomain, ← State.released_runs hgated] at hplans
  obtain ⟨hquiet, hsettles, hraises, hsteps⟩ := hplans
  rw [State.QuietTimerFollows, hdomain] at hquiet
  refine ⟨hquiet, fun hsame => ?_, fun hmove hlow => ?_, fun hmove hcover => ?_⟩
  · obtain ⟨h1, h2, h3, h4⟩ := hsettles hsame
    refine ⟨h1, h2, h3, fun h r hr hd => ?_⟩
    rw [← Record.unhold_evaluatedAt]
    exact h4 h r.unhold (hrecord h r hr hd) (r.unhold_domain.trans hd)
  · obtain ⟨h1, h2, h3, h4⟩ := hraises hmove hlow
    refine ⟨h1, h2, h3, fun h r hr hd => ?_⟩
    have hq := h4 h r.unhold (hrecord h r hr hd) (r.unhold_domain.trans hd)
    rwa [hunheld, ← hleft r hd] at hq
  · obtain ⟨h1, h2, h3, h4, h5, h6, h7⟩ := hsteps hmove hcover
    refine ⟨h1, h2, h3, h4, h5, h6, fun h r hr hd => ?_⟩
    have hq := h7 h r.unhold (hrecord h r hr hd) (r.unhold_domain.trans hd)
    rwa [hunheld, ← hleft r hd] at hq

/-- A gated one wakes where it is wanted or may not park. -/
theorem State.released_wakesTo (hsettled : (s.domain d).settled = false) (hgated : (s.domain d).gated = true)
    (h : s.wanted d = true ∨ (s.config d).park = false) :
    s.WakesTo ((s.released d).finish d) d (s.resolution d).1 ∧
    ∀ h, ∀ r ∈ s.record h, r.domain = d → r.status = .held →
      ∃ q, ((s.released d).finish d).record h = some q ∧ q.status = .pending := by
  have hdomain := s.unfrozen_domain d
  have hwakes := State.beginWake_wakesTo (s := s.unfrozen d) (d := d) (by rw [hdomain]; exact hsettled)
  simp only [State.WakesTo, hdomain] at hwakes
  rw [State.released_wakes hgated h]
  refine ⟨hwakes, fun k r hr hd hheld => ⟨{ r with status := .pending }, ?_, rfl⟩⟩
  have hunhold : r.unhold = { r with status := .pending } := if_pos (by simp [hheld])
  have hrecord : (s.unfrozen d).record k = some { r with status := .pending } :=
    (s.unfrozen_record d k).trans ((congrArg (Option.map _) hr).trans (congrArg some ((if_pos hd).trans hunhold)))
  rw [State.finish_record, State.beginWake_record, hrecord]
  exact congrArg some ((if_pos hd).trans (if_neg (by simp)))

theorem State.released_releasesTo (hstate : (s.domain d).state = .frozen) (hsettled : (s.domain d).settled = false) :
    s.ReleasesTo ((s.released d).finish d) d := by
  have hdomain := s.unfrozen_domain d
  have hkept : Domain.Unmoved ((s.unfrozen d).domain d) ((s.released d).domain d) := by
    cases hgated : (s.domain d).gated with
    | false =>
      have h := (s.thawed d).plan_unmoved d
      rw [State.thawed_domain] at h
      rw [State.released_runs hgated, hdomain]
      exact ⟨h.target, h.source, h.current, h.cause, h.quietTimer⟩
    | true =>
      rw [State.released_gated hgated]
      split
      · exact (s.unfrozen d).beginWake_unmoved d
      · rw [State.enterParked_domain]; exact ⟨rfl, rfl, rfl, rfl, rfl⟩
  rw [hdomain] at hkept
  constructor
  case cause => rw [State.finish_domain]; exact hkept.cause
  case target => rw [State.finish_domain]; exact hkept.target
  case source => rw [State.finish_domain]; exact hkept.source
  case current => rw [State.finish_domain]; exact hkept.current
  case runs => exact State.released_plansTo hstate
  case wakes => exact State.released_wakesTo hsettled
  case parks =>
    intro hgated hwanted hpark
    rw [State.released_parks hgated hwanted hpark]
    have hparked := (s.unfrozen d).enterParked_domain d
    refine ⟨?_, ?_, ?_, fun h r hr hd hcap => ?_⟩
    · rw [State.finish_domain, hparked]
    · rw [State.finish_domain, hparked]
    · rw [State.finish_domain]; simp only [State.needOf, hparked]
    · rw [State.finish_record, State.enterParked_record, State.unfrozen_record, show s.record h = some r from hr]
      simp only [Option.map_some, if_pos hd, Record.unhold_domain]
      rw [Record.unhold_evaluatedParked hcap]

/-- The notices of a release (R41, R134). -/
theorem State.released_box (s : State) (d : DomainId) (p : PortId) : (s.released d).box p =
    (s.releaseNotices d p).foldl Box.place (s.box p) := by
  have hdomain := s.unfrozen_domain d
  cases hgated : (s.domain d).gated with
  | false =>
    have hnotices (current target : Level) : (s.thawed d).planNotices d current target p =
        s.planNotices d current target p := by
      have h : (s.thawed d).settledNotices d current p = s.settledNotices d current p :=
        s.unfrozen_settledNotices d current p
      rw [State.planNotices, h]
      rfl
    rw [State.released_runs hgated, State.plan_box, hnotices, State.thawed_domain, State.releaseNotices, if_pos hgated]
    rfl
  | true =>
    by_cases hparks : s.wanted d = false ∧ (s.config d).park = true
    · rw [State.released_parks hgated hparks.1 hparks.2, State.enterParked_box, State.unfrozen_parkedNotices,
        State.releaseNotices, if_neg (by simp [hgated]), if_pos hparks]
      rfl
    · have hwakes : s.wanted d = true ∨ (s.config d).park = false := by
        cases hw : s.wanted d <;> cases hp : (s.config d).park <;> simp [hw, hp] at hparks ⊢
      rw [State.released_wakes hgated hwakes, State.releaseNotices, if_neg (by simp [hgated]), if_neg hparks, State.box,
        State.beginWake_boxes]
      rfl

/-! ### What the events of other domains leave of a domain -/

/-- `t` agrees with `s` in all that the statements on a release of domain d read. -/
structure State.Untouched (d : DomainId) (s t : State) : Prop where
  alike : s.Alike d t
  records : ∀ h r, r.domain = d → (t.record h = some r ↔ s.record h = some r)

theorem State.Untouched.refl (d : DomainId) (s : State) : s.Untouched d s := ⟨.refl d s, fun _ _ _ => .rfl⟩

theorem State.Untouched.trans (h : s.Untouched d t) (k : t.Untouched d u) : s.Untouched d u :=
  ⟨h.alike.trans k.alike, fun x r hr => (k.records x r hr).trans (h.records x r hr)⟩

/-- The frame of another domain. -/
theorem State.DomainFrame.untouched {e : DomainId} (h : s.DomainFrame e t) (hd : d ≠ e)
    (hassured : ∀ v, t.assured v = s.assured v) : s.Untouched d t := by
  refine ⟨h.alike hd hassured, fun k r hr => ⟨fun ht => ?_, fun hs => h.others k r hs (hr ▸ hd)⟩⟩
  obtain ⟨q, hq, -, hdomain, -⟩ := h.record_back ht
  have hkept := h.others k q hq (by rw [← hdomain, hr]; exact hd)
  rw [ht] at hkept
  rw [hq, hkept]

theorem State.DomainMove.untouched {e : DomainId} (h : s.DomainMove e t) (hd : d ≠ e) : s.Untouched d t :=
  h.frame.untouched hd h.assured

/-- What the end of an event of the domain itself adds with the rail's taking is not read. -/
theorem State.reevaluate_untouched (s : State) (v : RailId) (d : DomainId) : s.Untouched d (s.reevaluate v) := by
  have hrecord := s.reevaluate_record v
  refine ⟨⟨s.reevaluate_setups v, s.reevaluate_domain v d, fun cls => State.levelsOn_congr d cls fun k => by rw [hrecord],
    State.hasFloor_congr d fun k => by rw [hrecord], s.reevaluate_assured v _⟩, fun k r _ => by rw [hrecord]⟩

theorem State.filterMap_live_on {α : Type} (h : s.Untouched d t) (f : Handle × Record → Option α)
    (hf : ∀ x, x.2.domain ≠ d → f x = none) : t.live.filterMap f = s.live.filterMap f := by
  simp only [State.live, List.filterMap_filterMap]
  refine List.filterMap_congr fun k _ => ?_
  have hrecords := h.records k
  cases hs : s.record k with
  | none =>
    cases ht : t.record k with
    | none => rfl
    | some q =>
      by_cases hq : q.domain = d
      · exact nomatch hs.symm.trans ((hrecords q hq).1 ht)
      · exact hf (k, q) hq
  | some r =>
    by_cases hr : r.domain = d
    · rw [(hrecords r hr).2 hs]
    · cases ht : t.record k with
      | none => exact (hf (k, r) hr).symm
      | some q =>
        by_cases hq : q.domain = d
        · have heq := (hrecords q hq).1 ht
          rw [hs] at heq
          rw [Option.some.inj heq]
        · exact (hf (k, q) hq).trans (hf (k, r) hr).symm

theorem State.Untouched.releaseNotices (h : s.Untouched d t) (p : PortId) :
    t.releaseNotices d p = s.releaseNotices d p := by
  have hsettled (current : Level) : t.settledNotices d current p = s.settledNotices d current p :=
    State.filterMap_live_on h _ fun x hx => if_neg fun hc => hx hc.1
  have hparked : t.parkedNotices d p = s.parkedNotices d p := by
    rw [State.parkedNotices, h.alike.domain]
    exact State.filterMap_live_on h _ fun x hx => if_neg fun hc => hx hc.1
  simp only [State.releaseNotices, State.planNotices, hsettled, hparked, h.alike.domain, h.alike.resolution,
    h.alike.wanted, State.config_congr h.alike.setups]

/-- Where a release leads is seen alike from before the events of other domains. -/
theorem State.ReleasesTo.seen (h : u.ReleasesTo t d) (hu : s.Untouched d u) : s.ReleasesTo t d := by
  obtain ⟨hsetups, hdomain, -, -, hassured⟩ := hu.alike
  have hback (k : Handle) (r : Record) (hr : r ∈ s.record k) (hd : r.domain = d) : r ∈ u.record k :=
    (hu.records k r hd).2 hr
  have hcode (l : Level) : u.code d l = s.code d l := hu.alike.code l
  have hpoint (l : Level) : u.point d l = s.point d l := State.point_congr hsetups d l
  have hrailOf : u.railOf d = s.railOf d := State.railOf_congr hsetups d
  have hconfig : u.config d = s.config d := State.config_congr hsetups d
  constructor
  case cause => exact h.cause
  case target => rw [← hu.alike.resolution]; exact h.target
  case source => rw [← hu.alike.resolution]; exact h.source
  case current => rw [← hdomain]; exact h.current
  case runs =>
    intro hgated
    obtain ⟨hquiet, hsettles, hraises, hsteps⟩ := h.runs (by rw [hdomain]; exact hgated)
    have hleft (r : Record) (hd : r.domain = d) : u.leftStatus r = s.leftStatus r := by
      simp only [State.leftStatus, hd, hdomain]
    simp only [hdomain, hu.alike.resolution, hcode, hpoint, hrailOf, hassured] at hsettles hraises hsteps
    rw [State.QuietTimerFollows, hdomain] at hquiet
    refine ⟨hquiet, fun hsame => ?_, fun hmove hlow => ?_, fun hmove hcover => ?_⟩
    · obtain ⟨h1, h2, h3, h4⟩ := hsettles hsame
      exact ⟨h1, h2, h3, fun k r hr hd => h4 k r (hback k r hr hd) hd⟩
    · obtain ⟨h1, h2, h3, h4⟩ := hraises hmove hlow
      exact ⟨h1, h2, h3, fun k r hr hd => hleft r hd ▸ h4 k r (hback k r hr hd) hd⟩
    · obtain ⟨h1, h2, h3, h4, h5, h6, h7⟩ := hsteps hmove hcover
      exact ⟨h1, h2, h3, h4, h5, h6, fun k r hr hd => hleft r hd ▸ h7 k r (hback k r hr hd) hd⟩
  case wakes =>
    intro hgated hwakes
    obtain ⟨hto, hrecords⟩ := h.wakes (by rw [hdomain]; exact hgated) (by rw [hu.alike.wanted, hconfig]; exact hwakes)
    simp only [State.WakesTo, hdomain, hu.alike.resolution, hcode, hrailOf, hassured, hconfig] at hto
    exact ⟨hto, fun k r hr hd => hrecords k r (hback k r hr hd) hd⟩
  case parks =>
    intro hgated hwanted hpark
    obtain ⟨h1, h2, h3, h4⟩ := h.parks (by rw [hdomain]; exact hgated) (hu.alike.wanted.trans hwanted)
      (by rw [hconfig]; exact hpark)
    exact ⟨h1, h2, h3, fun k r hr hd => h4 k r (hback k r hr hd) hd⟩

/-- No record is made or removed, and of those there are only status, acknowledgement and last verdict differ. -/
structure State.RecordsFiled (s t : State) : Prop where
  freed : ∀ h, s.record h = none → t.record h = none
  filed : ∀ h, ∀ r ∈ s.record h, ∃ status acknowledged lastSettled,
    t.record h = some { r with status := status, acknowledged := acknowledged, lastSettled := lastSettled }

theorem State.RecordsFiled.refl (s : State) : s.RecordsFiled s := ⟨fun _ h => h, fun _ _ hr => ⟨_, _, _, hr⟩⟩

theorem State.RecordsFiled.trans (h : s.RecordsFiled t) (k : t.RecordsFiled u) : s.RecordsFiled u := by
  refine ⟨fun x hx => k.freed x (h.freed x hx), fun x r hr => ?_⟩
  obtain ⟨a, b, c, ht⟩ := h.filed x r hr
  exact k.filed x { r with status := a, acknowledged := b, lastSettled := c } ht

theorem State.DomainFrame.recordsFiled (h : s.DomainFrame d t) : s.RecordsFiled t := ⟨h.freed, h.filed⟩

/-- And they leave it so. -/
theorem State.ReleasesTo.kept (h : s.ReleasesTo t d) (hfiled : s.RecordsFiled t) (hu : t.Untouched d u) :
    s.ReleasesTo u d := by
  obtain ⟨hsetups, hdomain, -, hfloor, -⟩ := hu.alike
  have hkept (k : Handle) (r q : Record) (hr : r ∈ s.record k) (hd : r.domain = d) (hq : t.record k = some q) :
      u.record k = some q := by
    obtain ⟨a, b, c, hfile⟩ := hfiled.filed k r hr
    obtain rfl := Option.some.inj (hfile.symm.trans hq)
    exact (hu.records k { r with status := a, acknowledged := b, lastSettled := c } hd).2 hq
  constructor
  case cause => rw [hdomain]; exact h.cause
  case target => rw [hdomain]; exact h.target
  case source => rw [hdomain]; exact h.source
  case current => rw [hdomain]; exact h.current
  case runs =>
    intro hgated
    obtain ⟨hquiet, hsettles, hraises, hsteps⟩ := h.runs hgated
    rw [State.PlansTo, State.QuietTimerFollows, hdomain, hfloor, State.config_congr hsetups]
    refine ⟨hquiet, fun hsame => ?_, fun hmove hlow => ?_, fun hmove hcover => ?_⟩
    · obtain ⟨h1, h2, h3, h4⟩ := hsettles hsame
      exact ⟨h1, h2, h3, fun k r hr hd => hkept k r _ hr hd (h4 k r hr hd)⟩
    · obtain ⟨h1, h2, h3, h4⟩ := hraises hmove hlow
      refine ⟨h1, h2, h3, fun k r hr hd => ?_⟩
      obtain ⟨q, hq, hstatus⟩ := h4 k r hr hd
      exact ⟨q, hkept k r q hr hd hq, hstatus⟩
    · obtain ⟨h1, h2, h3, h4, h5, h6, h7⟩ := hsteps hmove hcover
      refine ⟨h1, h2, h3, h4, h5, h6, fun k r hr hd => ?_⟩
      obtain ⟨q, hq, hstatus⟩ := h7 k r hr hd
      exact ⟨q, hkept k r q hr hd hq, hstatus⟩
  case wakes =>
    intro hgated hwakes
    obtain ⟨hto, hrecords⟩ := h.wakes hgated hwakes
    refine ⟨by rw [State.WakesTo, hdomain]; exact hto, fun k r hr hd hheld => ?_⟩
    obtain ⟨q, hq, hstatus⟩ := hrecords k r hr hd hheld
    exact ⟨q, hkept k r q hr hd hq, hstatus⟩
  case parks =>
    intro hgated hwanted hpark
    obtain ⟨h1, h2, h3, h4⟩ := h.parks hgated hwanted hpark
    rw [hdomain]
    exact ⟨h1, h2, h3, fun k r hr hd hcap => hkept k r _ hr hd (h4 k r hr hd hcap)⟩

/-! ### What a release touches -/

/-- Only domain controllers, records and pending sets differ. -/
def State.DomainsOnly (s t : State) : Prop :=
  t = { s with domains := t.domains, records := t.records, boxes := t.boxes }

theorem State.DomainsOnly.trans (h : s.DomainsOnly t) (k : t.DomainsOnly u) : s.DomainsOnly u :=
  Eq.trans k (congrArg (fun x : State => { x with domains := u.domains, records := u.records, boxes := u.boxes }) h)

theorem State.DomainsOnly.ite {c : Prop} [Decidable c] (h : s.DomainsOnly t) (k : s.DomainsOnly u) :
    s.DomainsOnly (if c then t else u) := by
  split
  exacts [h, k]

theorem State.DomainsOnly.evaluate (s : State) (d : DomainId) (rule : Record → Option Verdict) :
    s.DomainsOnly (s.evaluate d rule) := by
  rw [State.DomainsOnly, State.evaluate_eq]

theorem State.DomainsOnly.plan (s : State) (d : DomainId) : s.DomainsOnly (s.plan d) := by
  unfold State.plan
  refine .ite (.trans (t := s.setDomain d { s.domain d with state := .steady, settled := true }) rfl (.evaluate _ d _)) ?_
  exact .ite rfl rfl

theorem State.DomainsOnly.checkRailStage (s : State) (d : DomainId) : s.DomainsOnly (s.checkRailStage d) := by
  unfold State.checkRailStage
  exact .ite rfl rfl

theorem State.DomainsOnly.releaseDomain (s : State) (d : DomainId) : s.DomainsOnly (s.releaseDomain d) := by
  have hunfrozen : s.DomainsOnly (s.unfrozen d) := rfl
  have hreleased : (s.unfrozen d).DomainsOnly (s.released d) := by
    refine .ite (.ite ?_ ?_) (.trans (t := s.thawed d) rfl (.plan _ d))
    · exact .trans (t := ((s.unfrozen d).unsettleRecords d).setDomain d
        { ((s.unfrozen d).unsettleRecords d).domain d with state := .waking .rail, gated := true }) rfl (.checkRailStage _ d)
    · exact .trans (t := (s.unfrozen d).setDomain d { (s.unfrozen d).domain d with state := .parked, gated := true }) rfl
        (.evaluate _ d _)
  exact (hunfrozen.trans hreleased).trans rfl

theorem State.DomainsOnly.releaseAll (s : State) (es : List DomainId) :
    s.DomainsOnly (es.foldl State.releaseDomain s) := by
  induction es generalizing s with
  | nil => rfl
  | cons e es ih => exact (State.DomainsOnly.releaseDomain s e).trans (ih _)

/-! ### Several domains, one after another -/

theorem State.releaseDomain_box (s : State) (d : DomainId) (p : PortId) : (s.releaseDomain d).box p =
    (s.releaseNotices d p).foldl Box.place (s.box p) := s.released_box d p

theorem State.releaseAll_untouched (s : State) {es : List DomainId} (hd : d ∉ es) :
    s.Untouched d (es.foldl State.releaseDomain s) := by
  induction es generalizing s with
  | nil => exact .refl d s
  | cons e es ih =>
    obtain ⟨hne, hes⟩ := not_or.1 (mt List.mem_cons.2 hd)
    exact ((State.DomainMove.releaseDomain s e).untouched hne).trans (ih _ hes)

theorem State.releaseAll_recordsFiled (s : State) (es : List DomainId) :
    s.RecordsFiled (es.foldl State.releaseDomain s) := by
  induction es generalizing s with
  | nil => exact .refl s
  | cons e es ih => exact (State.DomainMove.releaseDomain s e).frame.recordsFiled.trans (ih _)

/-- Each domain is where its own release puts it. -/
theorem State.releaseAll_releasesTo (s : State) {es : List DomainId} (hnodup : es.Nodup) (hd : d ∈ es)
    (hstate : (s.domain d).state = .frozen) (hsettled : (s.domain d).settled = false) :
    s.ReleasesTo (es.foldl State.releaseDomain s) d := by
  induction es generalizing s with
  | nil => cases hd
  | cons e es ih =>
    obtain ⟨he, hnodup⟩ := List.nodup_cons.1 hnodup
    obtain rfl | hes := List.mem_cons.1 hd
    · have hafter : ((s.released d).finish d).Untouched d (s.releaseDomain d) := by
        have h := (s.releaseDomain d).reevaluate_untouched ((s.released d).railOf d) d
        exact ⟨⟨h.alike.setups.symm, h.alike.domain.symm, fun cls => (h.alike.levels cls).symm, h.alike.floor.symm,
          (State.reevaluate_assured _ _ _).symm⟩, fun k r hr => (h.records k r hr).symm⟩
      exact (State.released_releasesTo hstate hsettled).kept
        ((State.DomainMove.released s d).frame.trans (.finish _ d)).recordsFiled (hafter.trans (State.releaseAll_untouched _ he))
    · have hne : d ≠ e := fun h => he (h ▸ hes)
      have hother := (State.DomainMove.releaseDomain s e).untouched hne
      exact (ih (s.releaseDomain e) hnodup hes (by rw [hother.alike.domain]; exact hstate)
        (by rw [hother.alike.domain]; exact hsettled)).seen hother

/-- The ports take the notices of the domains one after another. -/
theorem State.releaseAll_told (s : State) {es : List DomainId} (hnodup : es.Nodup) :
    s.Told (es.foldl State.releaseDomain s) fun p => es.flatMap fun d => s.releaseNotices d p := by
  intro p
  induction es generalizing s with
  | nil => rfl
  | cons e es ih =>
    obtain ⟨he, hnodup⟩ := List.nodup_cons.1 hnodup
    have hrest : (es.flatMap fun d => (s.releaseDomain e).releaseNotices d p) =
        es.flatMap fun d => s.releaseNotices d p :=
      List.flatMap_congr fun d hd => ((State.DomainMove.releaseDomain s e).untouched
        fun h => he (h ▸ hd)).releaseNotices p
    refine (ih (s.releaseDomain e) hnodup).trans ?_
    dsimp only
    rw [hrest, State.releaseDomain_box, List.flatMap_cons, List.foldl_append]

/-! ### CLEAR-FAULT (R132 to R135) -/

theorem exec_clearFaultRailForm (arg : FormArg RailId) (s : State) :
    exec (.clearFaultRailForm arg) s = execClearFaultRailForm arg s := rfl

theorem exec_clearFaultDomainForm (d : DomainId) (s : State) :
    exec (.clearFaultDomainForm d) s = execClearFaultDomainForm d s := rfl

/-- The body of CLEAR-FAULT in domain form. -/
def State.clearDomainRequest (t : State) (d : DomainId) : State × Reply :=
  if (t.domain d).state = .frozen ∧ (t.domain d).cause = .clock ∧ !(t.rail (t.railOf d)).faulted then
    ((t.releaseDomain d).reevaluate (t.railOf d), .ok 1 0 0 0 0 0)
  else if (t.domain d).state = .off then (t, .refuse .railShut)
  else (t, .refuse .notFaulted)

theorem execClearFaultDomainForm_eq (d : DomainId) (s : State) : execClearFaultDomainForm d s =
    .next (s.serve supervisor (.clearFaultDomainForm d) fun t => t.clearDomainRequest d) := rfl

section DomainForm
variable {rest : List Sent} (hs : s.Awaits supervisor (.clearFaultDomainForm d) rest)
include hs

theorem execClearFaultDomainForm_off (hoff : (s.domain d).state = .off) :
    execClearFaultDomainForm d s = .next (s.answered supervisor rest (refusal 0x35 0x54)) := by
  have hbody (t : State) (h : (t.domain d).state = .off) : t.clearDomainRequest d = (t, .refuse .railShut) := by
    rw [State.clearDomainRequest, if_neg (by rw [h]; nofun), if_pos h]
  rw [execClearFaultDomainForm_eq]
  exact congrArg Host.Outcome.next (State.serve_refused hs _ .railShut (hbody _ hoff))

theorem execClearFaultDomainForm_notFaulted (hoff : (s.domain d).state ≠ .off)
    (hcause : ¬((s.domain d).state = .frozen ∧ (s.domain d).cause = .clock)) :
    execClearFaultDomainForm d s = .next (s.answered supervisor rest (refusal 0x33 0x54)) := by
  have hbody (t : State) (h : t.domain d = s.domain d) : t.clearDomainRequest d = (t, .refuse .notFaulted) := by
    rw [State.clearDomainRequest, h, if_neg fun hc => hcause ⟨hc.1, hc.2.1⟩, if_neg hoff]
  rw [execClearFaultDomainForm_eq]
  exact congrArg Host.Outcome.next (State.serve_refused hs _ .notFaulted (hbody _ rfl))

theorem execClearFaultDomainForm_releases (hstate : (s.domain d).state = .frozen) (hcause : (s.domain d).cause = .clock)
    (hfree : (s.rail (s.railOf d)).faulted = false) :
    execClearFaultDomainForm d s =
      .next (((s.released d).finish d).answered supervisor rest ⟨0x00, 0x54, 1, 0, 0, 0, 0, 0⟩ s) := by
  have hbody : (s.setPort supervisor { s.port supervisor with sent := rest }).clearDomainRequest d =
      (((s.released d).finish d).setPort supervisor { s.port supervisor with sent := rest }, .ok 1 0 0 0 0 0) := by
    refine (if_pos ⟨hstate, hcause, by rw [Bool.not_eq_true']; exact hfree⟩).trans ?_
    rw [State.setPort_releaseDomain, State.setPort_railOf, State.setPort_reevaluate, State.finish,
      (State.DomainMove.released s d).frame.railOf]
    rfl
  rw [execClearFaultDomainForm_eq]
  refine congrArg Host.Outcome.next (State.serve_answered hs (fun t => t.clearDomainRequest d) ((s.released d).finish d)
    (.ok 1 0 0 0 0 0) hbody ?_)
  exact congrArg (·[supervisor]) ((State.DomainMove.released s d).frame.trans (.finish _ d)).ports

end DomainForm

/-- The body of CLEAR-FAULT in rail form, with a rail number. -/
def State.clearRailRequest (t : State) (v : RailId) : State × Reply :=
  match (t.rail v).state with
  | .held => t.clearRail v
  | .fallback => (t, .refuse .faultBusy)
  | .shutdown => (t, .refuse .railShut)
  | _ => (t, .refuse .notFaulted)

theorem execClearFaultRailForm_eq (v : RailId) (s : State) : execClearFaultRailForm (.number v) s =
    .next (s.serve supervisor (.clearFaultRailForm (.number v)) fun t => t.clearRailRequest v) := rfl

/-- The rail without its fault, its domains yet to be released (R133). -/
def State.unfaulted (s : State) (v : RailId) : State :=
  s.setRail v { s.rail v with state := .steady, cause := .none }

/-- The state after the release of the domains, in the order of `es`, and of the rail. -/
def State.railReleased (s : State) (v : RailId) (es : List DomainId) (choices : Nat) : State :=
  (es.foldl State.releaseDomain { s.unfaulted v with choices := choices }).reevaluate v

/-- The domains take their releases in some order. -/
theorem State.clearRail_eq (s : State) (v : RailId) (hfrozen : ∀ d, s.railOf d = v → (s.domain d).state = .frozen) :
    ∃ es choices, es.Perm (s.mapped v) ∧
      s.clearRail v = (s.railReleased v es choices, .ok (byte (s.mapped v).length) 0 0 0 0 0) := by
  have hall : (((s.unfaulted v).mapped v).filter fun d => ((s.unfaulted v).domain d).state = .frozen) = s.mapped v :=
    List.filter_eq_self.2 fun d hd => decide_eq_true (hfrozen d (State.mem_mapped.1 hd))
  obtain ⟨hnodup, hmem, choices, hstate⟩ := (s.unfaulted v).inFreeOrder_perm (s.mapped v) (s.mapped_nodup v)
  refine ⟨_, choices, (List.perm_ext_iff_of_nodup hnodup (s.mapped_nodup v)).2 hmem, ?_⟩
  have heq : s.clearRail v = ((((s.unfaulted v).inFreeOrder (((s.unfaulted v).mapped v).filter
      fun d => ((s.unfaulted v).domain d).state = .frozen)).1.foldl State.releaseDomain ((s.unfaulted v).inFreeOrder
      (((s.unfaulted v).mapped v).filter fun d => ((s.unfaulted v).domain d).state = .frozen)).2).reevaluate v,
      .ok (byte (((s.unfaulted v).mapped v).filter fun d => ((s.unfaulted v).domain d).state = .frozen).length) 0 0 0 0 0) := rfl
  rw [heq, hall, hstate]
  rfl

section RailForm
variable {rest : List Sent} (hs : s.Awaits supervisor (.clearFaultRailForm (.number v)) rest)
include hs

theorem execClearFaultRailForm_fallback (h : (s.rail v).state = .fallback) :
    execClearFaultRailForm (.number v) s = .next (s.answered supervisor rest (refusal 0x34 0x54)) := by
  have hbody (t : State) (h : (t.rail v).state = .fallback) : t.clearRailRequest v = (t, .refuse .faultBusy) := by
    simp only [State.clearRailRequest, h]
  rw [execClearFaultRailForm_eq]
  exact congrArg Host.Outcome.next (State.serve_refused hs _ .faultBusy (hbody _ h))

theorem execClearFaultRailForm_shutdown (h : (s.rail v).state = .shutdown) :
    execClearFaultRailForm (.number v) s = .next (s.answered supervisor rest (refusal 0x35 0x54)) := by
  have hbody (t : State) (h : (t.rail v).state = .shutdown) : t.clearRailRequest v = (t, .refuse .railShut) := by
    simp only [State.clearRailRequest, h]
  rw [execClearFaultRailForm_eq]
  exact congrArg Host.Outcome.next (State.serve_refused hs _ .railShut (hbody _ h))

theorem execClearFaultRailForm_free (h : (s.rail v).faulted = false) :
    execClearFaultRailForm (.number v) s = .next (s.answered supervisor rest (refusal 0x33 0x54)) := by
  obtain ⟨hfallback, hheld, hshut⟩ := Rail.not_faulted.1 h
  have hbody (t : State) (h : t.rail v = s.rail v) : t.clearRailRequest v = (t, .refuse .notFaulted) := by
    unfold State.clearRailRequest
    rw [h]
    split
    · next e => exact absurd e hheld
    · next e => exact absurd e hfallback
    · next e => exact absurd e hshut
    · rfl
  rw [execClearFaultRailForm_eq]
  exact congrArg Host.Outcome.next (State.serve_refused hs _ .notFaulted (hbody _ rfl))

theorem execClearFaultRailForm_held (h : (s.rail v).state = .held)
    (hfrozen : ∀ d, s.railOf d = v → (s.domain d).state = .frozen) : ∃ es choices, es.Perm (s.mapped v) ∧
    execClearFaultRailForm (.number v) s = .next ((s.railReleased v es choices).answered supervisor rest
      ⟨0x00, 0x54, byte (s.mapped v).length, 0, 0, 0, 0, 0⟩ s) := by
  obtain ⟨es, choices, hperm, hclear⟩ := s.clearRail_eq v hfrozen
  refine ⟨es, choices, hperm, ?_⟩
  have hbody : (s.setPort supervisor { s.port supervisor with sent := rest }).clearRailRequest v =
      ((s.railReleased v es choices).setPort supervisor { s.port supervisor with sent := rest },
        .ok (byte (s.mapped v).length) 0 0 0 0 0) := by
    unfold State.clearRailRequest
    rw [State.setPort_rail, h]
    rw [State.setPort_clearRail, hclear]
  rw [execClearFaultRailForm_eq]
  refine congrArg Host.Outcome.next (State.serve_answered hs (fun t => t.clearRailRequest v) (s.railReleased v es choices)
    (.ok (byte (s.mapped v).length) 0 0 0 0 0) hbody ?_)
  have hports : (s.railReleased v es choices).ports = s.ports := by
    rw [State.railReleased, State.reevaluate_eq, State.DomainsOnly.releaseAll { s.unfaulted v with choices := choices } es]
    rfl
  exact congrArg (·[supervisor]) hports

end RailForm

/-! ### What the release of a rail leaves -/

section RailReleased
variable (s v) (es : List DomainId) (choices : Nat)

/-- The domains released, before the rail re-evaluates. -/
def State.allReleased : State := es.foldl State.releaseDomain { s.unfaulted v with choices := choices }

theorem State.allReleased_rest : s.allReleased v es choices = { s with
    rails := (s.unfaulted v).rails, choices := choices, domains := (s.allReleased v es choices).domains
    records := (s.allReleased v es choices).records, boxes := (s.allReleased v es choices).boxes } :=
  State.DomainsOnly.releaseAll { s.unfaulted v with choices := choices } es

theorem State.allReleased_rail (w : RailId) : (s.allReleased v es choices).rail w =
    if w = v then { s.rail v with state := .steady, cause := .none } else s.rail w := by
  rw [State.allReleased_rest]
  exact s.setRail_rail v w _

theorem State.railReleased_rest : s.railReleased v es choices = { s with
    rails := (s.railReleased v es choices).rails
    link := { s.link with elected := (s.railReleased v es choices).link.elected }
    choices := choices, domains := (s.railReleased v es choices).domains
    records := (s.railReleased v es choices).records, boxes := (s.railReleased v es choices).boxes } := by
  have h : s.railReleased v es choices = (s.allReleased v es choices).reevaluate v := rfl
  rw [h, State.reevaluate_eq, State.allReleased_rest]
  rfl

theorem State.railReleased_rail_ne {w : RailId} (hw : w ≠ v) : (s.railReleased v es choices).rail w = s.rail w :=
  ((s.allReleased v es choices).reevaluate_rail v w).trans
    ((if_neg hw).trans ((s.allReleased_rail v es choices w).trans (if_neg hw)))

/-- The rail follows the command rule, with no command before it (R88). -/
theorem State.railReleased_rail (hnone : (s.rail v).command = .none) : (s.railReleased v es choices).rail v = { s.rail v with
    state := ((s.railReleased v es choices).rail v).state, cause := .none
    required := (s.railReleased v es choices).requiredCode v
    command := if (s.railReleased v es choices).requiredCode v = (s.rail v).confirmed then .none
      else .queued ((s.railReleased v es choices).requiredCode v) } ∧
    ((s.railReleased v es choices).rail v).faulted = false := by
  have hrequired : (s.railReleased v es choices).requiredCode v = (s.allReleased v es choices).requiredCode v :=
    State.reevaluate_requiredCode _ v v
  have hrail : (s.railReleased v es choices).rail v = Rail.reevaluated { s.rail v with state := .steady, cause := .none }
      ((s.allReleased v es choices).requiredCode v) ((s.allReleased v es choices).allParked v) := by
    have h := (s.allReleased v es choices).reevaluate_rail v v
    rw [if_pos rfl, State.reevaluated_eq_rail, State.allReleased_rail, if_pos rfl] at h
    exact h
  rw [Rail.reevaluated_of_free rfl] at hrail
  rw [hrail, hrequired]
  refine ⟨?_, Rail.withOrdinaryState_not_faulted _ _ _⟩
  by_cases hmet : (s.allReleased v es choices).requiredCode v = (s.rail v).confirmed
  · rw [if_pos hmet, Rail.commandRule_met (by dsimp only; rw [hnone]; nofun) hmet]
  · rw [if_neg hmet, Rail.commandRule_unmet (by dsimp only; rw [hnone]; nofun) hmet]

/-- A domain of another rail is untouched. -/
theorem State.unfaulted_untouched (d : DomainId) : s.Untouched d { s.unfaulted v with choices := choices } := by
  refine ⟨⟨rfl, rfl, fun _ => rfl, rfl, ?_⟩, fun _ _ _ => .rfl⟩
  have hrail : State.rail { s.unfaulted v with choices := choices } (s.railOf d) =
      if s.railOf d = v then { s.rail v with state := .steady, cause := .none } else s.rail (s.railOf d) :=
    s.setRail_rail v (s.railOf d) _
  rw [State.assured, hrail]
  split
  · next h => rw [h]; rfl
  · rfl

end RailReleased

end Sys2Proof.Machine

/-! ### The statements -/

namespace Sys2Proof.Faults

open Sys2Proof.Machine

/-- Settles O55: a domain with a CLOCK fault is gated, so it wakes or parks. -/
theorem clearFaultDomainFormReleases : Obligations.ClearFaultDomainFormReleases := by
  intro s d rest hmoves hs
  have hsound : (s.domain d).MovesSound := (hmoves d).1
  dsimp only
  rw [exec_clearFaultDomainForm]
  refine ⟨fun hoff => execClearFaultDomainForm_off hs hoff, fun hoff hcause =>
    execClearFaultDomainForm_notFaulted hs hoff hcause, fun hstate hcause hfree => ?_⟩
  have hgated : (s.domain d).gated = true := hsound.2.2.2.2.2.2.2.2.2.2 hcause
  have hto := State.released_releasesTo hstate (hsound.not_settled (by rw [hstate]; nofun))
  refine ⟨_, execClearFaultDomainForm_releases hs hstate hcause hfree,
    (State.DomainMove.released s d).frame.trans (.finish _ d), ?park, hto.cause, hto.target, hto.source, fun p => ?told,
    fun h => hto.wakes hgated h, fun hwanted hpark => hto.parks hgated hwanted hpark⟩
  case park =>
    have hrest : (s.releaseDomain d).park = s.park := by rw [State.DomainsOnly.releaseDomain s d]
    rw [State.finish_park]
    exact hrest
  case told => rw [State.finish_box, State.released_box]

/-- Settles O54: the domains are released one after another, and none reads what the others do. -/
theorem clearFaultRailFormReleases : Obligations.ClearFaultRailFormReleases := by
  intro s v form rest
  rw [exec_clearFaultRailForm]
  refine ⟨fun hs => congrArg Host.Outcome.next (State.serve_refused hs _ .badArgument rfl), fun hs => ?_⟩
  dsimp only
  rw [exec_clearFaultRailForm]
  refine ⟨execClearFaultRailForm_fallback hs, execClearFaultRailForm_shutdown hs, execClearFaultRailForm_free hs,
    fun hsound hheld => ?_⟩
  have hfrozen (d : DomainId) (hd : s.railOf d = v) : (s.domain d).state = .frozen :=
    ((hsound.faults.1 d).1.1 (.inr (by rw [hd]; exact hheld))).1
  have hsettled (d : DomainId) (hd : s.railOf d = v) : (s.domain d).settled = false :=
    (hsound.moves d).1.not_settled (by rw [hfrozen d hd]; nofun)
  obtain ⟨hconfirmed, hnone⟩ := (hsound.faults.2 v).2.1 hheld
  obtain ⟨es, choices, hperm, hexec⟩ := execClearFaultRailForm_held hs hheld hfrozen
  have hnodup : es.Nodup := hperm.nodup_iff.2 (s.mapped_nodup v)
  have hmem (d : DomainId) : d ∈ es ↔ s.railOf d = v := hperm.mem_iff.trans State.mem_mapped
  have hrest := s.railReleased_rest v es choices
  obtain ⟨hrail, hfree⟩ := s.railReleased_rail v es choices hnone
  have hstart (d : DomainId) := s.unfaulted_untouched v choices d
  have hend (d : DomainId) := (s.allReleased v es choices).reevaluate_untouched v d
  have hother (d : DomainId) (hd : s.railOf d ≠ v) : s.Untouched d (s.railReleased v es choices) :=
    ((hstart d).trans (State.releaseAll_untouched _ (mt (hmem d).1 hd))).trans (hend d)
  have hnotices : s.Told (s.railReleased v es choices) fun p => es.flatMap fun d => s.releaseNotices d p := by
    intro p
    have htold := State.releaseAll_told { s.unfaulted v with choices := choices } hnodup p
    dsimp only at htold
    rw [List.flatMap_congr fun d _ => (hstart d).releaseNotices p] at htold
    exact ((s.allReleased v es choices).reevaluate_box v p).trans htold
  refine ⟨_, hexec, by rw [hrail], hfree, by rw [hrail]; exact hconfirmed, fun w hw => s.railReleased_rail_ne v es choices hw,
    by rw [hrest], by rw [hrest], by rw [hrail], ?command, ?rail, ?rest, ⟨_, by rw [hrest]⟩, fun h hfreed => ?freed,
    fun h r hr hd => (hother r.domain hd).records h r rfl |>.2 hr, ⟨es, hperm, hnotices⟩, fun d hd => (hother d hd).alike.domain,
    fun d hd => ?releases⟩
  case command =>
    rw [hrail]
    simp only [hconfirmed]
  case rail =>
    have hcommand : ((s.railReleased v es choices).rail v).command = if (s.railReleased v es choices).requiredCode v =
        (s.rail v).confirmed then .none else .queued ((s.railReleased v es choices).requiredCode v) := by rw [hrail]
    have hrequired : ((s.railReleased v es choices).rail v).required = (s.railReleased v es choices).requiredCode v := by
      rw [hrail]
    rw [hcommand, hrequired]
    exact hrail
  case rest =>
    exact hrest.trans (by rw [hrest])
  case freed =>
    rw [← (State.releaseAll_recordsFiled { s.unfaulted v with choices := choices } es).freed h hfreed]
    exact (s.allReleased v es choices).reevaluate_record v h
  case releases =>
    have hto := ((State.releaseAll_releasesTo { s.unfaulted v with choices := choices } hnodup ((hmem d).2 hd)
      (hfrozen d hd) (hsettled d hd)).kept (State.releaseAll_recordsFiled _ es) (hend d)).seen (hstart d)
    exact ⟨hto.cause, hto.target, hto.source, hto.current, hto.runs, hto.wakes, hto.parks⟩

end Sys2Proof.Faults
end

section
/-! PROOFS. The relations of a sound state after a pin reset, and what of them nothing but the records, the consent channel
and the settings can change. -/

-- The proofs are elaborated one after another: side by side they would exceed the memory that the check allows.
set_option Elab.async false

namespace Sys2Proof.Machine

variable {strict : Prop} {s t : State}

/-! ### The state after a reset -/

theorem State.reset_requiredCode : ∀ v : RailId, State.reset.requiredCode v = 0x80 := by decide

theorem State.reset_allParked : ∀ v : RailId, State.reset.allParked v = false := by decide

theorem resetRail_fits : resetRail.Fits where
  window := by decide
  fallback := by constructor <;> decide
  retention := by constructor <;> decide
  stepTime := by decide
  cause := iff_of_false (fun h => h rfl) (by decide)
  held := nofun
  shut := nofun
  falling := nofun
  command := nofun
  outstanding := nofun

section Reset
variable (inputs : InputLevels)

theorem State.ofReset_point (d : DomainId) (l : Level) :
    (State.ofReset inputs).point d l = { valid := l = 0, clock := 0x00, volt := 0x80 } := State.reset_point d l

theorem State.ofReset_code (d : DomainId) (l : Level) : (State.ofReset inputs).code d l = 0x80 :=
  congrArg Point.volt (State.ofReset_point inputs d l)

theorem State.ofReset_config (d : DomainId) : (State.ofReset inputs).config d = State.reset.config d := rfl

theorem State.ofReset_setupFits (d : DomainId) : (State.ofReset inputs).SetupFits d := by
  have hconfig := (State.ofReset_config inputs d).trans (State.reset_config d)
  constructor
  case zero => rw [State.ofReset_point]; rfl
  case rest => rw [State.ofReset_point, hconfig]; rfl
  case safe => rw [State.ofReset_point, hconfig]; rfl
  case limits => rw [hconfig]; exact Fin.le_last 0
  case inside => intro l _; rw [State.ofReset_rail, State.ofReset_code]; constructor <;> decide
  case fallback => rw [State.ofReset_rail, State.ofReset_code]; decide

theorem resetDomain_movesSound : resetDomain.MovesSound := by simp [Domain.MovesSound, resetDomain, DomainState.gate]

theorem State.ofReset_fits (d : DomainId) : (State.ofReset inputs).Fits d resetDomain := by
  have hassured : (State.ofReset inputs).assured ((State.ofReset inputs).railOf d) = 0x80 := by
    rw [State.assured, State.ofReset_rail]; rfl
  refine .of_free (by rw [State.ofReset_rail]; rfl) ?_ ?_ nofun resetDomain_movesSound nofun nofun (fun _ => ?_) nofun nofun
  · rw [State.ofReset_point]; rfl
  · rw [State.ofReset_point]; rfl
  · rw [hassured, State.ofReset_code]
    exact ⟨BitVec.le_refl _, nofun⟩

/-- After a reset all relations hold (R43, R62, R81, R105, R106). -/
theorem State.ofReset_whole : (State.ofReset inputs).Whole strict := by
  have hcommand (v : RailId) : ((State.ofReset inputs).rail v).command = .none := by rw [State.ofReset_rail]; rfl
  refine ⟨?_, nofun, fun _ _ v => State.ofReset_waiting inputs v⟩
  constructor
  case setups => exact State.ofReset_setupFits inputs
  case fits => exact fun d _ => by rw [State.ofReset_domain]; exact State.ofReset_fits inputs d
  case parked => exact fun d _ h => by rw [State.ofReset_domain] at h; cases h
  case statuses => exact fun _ d _ h r hr => by rw [State.ofReset_record] at hr; cases hr
  case rails => exact fun v => by rw [State.ofReset_rail]; exact resetRail_fits
  case consent =>
    refine ⟨.nil, nofun, fun d => ?_⟩
    rw [State.ofReset_domain]
    exact iff_of_false nofun (by rintro (h | h) <;> cases h)
  case transfer =>
    refine ⟨iff_of_true rfl rfl, fun _ => rfl, nofun, fun v code tries h => ?_⟩
    rw [hcommand] at h; cases h
  case closed =>
    intro d _
    rw [State.Closed, State.needOf, State.ofReset_domain, State.ofReset_code]
    exact ⟨rfl, fun h => absurd rfl h⟩
  case followed =>
    intro v _
    have hrequired : (State.ofReset inputs).requiredCode v = 0x80 := State.reset_requiredCode v
    have hparked : (State.ofReset inputs).allParked v = false := State.reset_allParked v
    refine ⟨?_, fun _ _ => ?_, fun _ code h => ?_, fun _ => ?_⟩
    · rw [hrequired, State.ofReset_rail]; rfl
    · rw [State.ofReset_rail]; rfl
    · rw [hcommand] at h; cases h
    · rw [hparked, State.ofReset_rail]; decide

end Reset

end Sys2Proof.Machine

/-! ### The statements -/

namespace Sys2Proof.Steps

open Sys2Proof.Machine

/-- Settles O57. -/
theorem resetIsSound : Obligations.ResetIsSound := by
  obtain ⟨hkeys, hsetup, hquotas, hleases, hgenerations, hboxes⟩ := State.reset_tableSound quietInputs
  obtain ⟨hsound, hstatuses⟩ := (State.ofReset_whole (strict := True) quietInputs).sound
  exact ⟨hsound, hkeys, hsetup, hquotas, hleases, hgenerations, hstatuses trivial, hboxes⟩

end Sys2Proof.Steps
end

section
/-! PROOFS. The events of the rail controllers and of the regulator link keep the relations of a sound state. -/

-- The proofs are elaborated one after another: side by side they would exceed the memory that the check allows.
set_option Elab.async false

namespace Sys2Proof.Machine

variable {strict : Prop} {s t u : State} {v : RailId} {fit closed : DomainId → Prop} {followed : RailId → Prop}

/-! ### What only the link reads -/

/-- The link keeps its transfer, and no command begins or ends to wait for a reply. -/
theorem State.Coherent.aside (h : s.Coherent strict fit closed followed)
    (hsetups : t.setups = s.setups := by rfl) (hdomains : t.domains = s.domains := by rfl)
    (hrails : t.rails = s.rails := by rfl) (hlink : t.link = s.link := by rfl) (hpark : t.park = s.park := by rfl)
    (hrecords : t.records = s.records := by rfl) : t.Coherent strict fit closed followed := by
  have hrail (w : RailId) : t.rail w = s.rail w := by rw [State.rail, hrails]; rfl
  refine ⟨h.toConsistent.aside (h.transfer.congr (by rw [hlink]) (by rw [hlink]) (by rw [hlink]) (by rw [hlink])
    fun w _ _ => by rw [hrail]) hsetups hdomains hrails hpark hrecords, h.elected.congr (by rw [hlink]) ?_ fun w =>
    State.waiting_congr (by rw [hrail])⟩
  rw [State.linkBusy, hlink]
  rfl

theorem Domain.Paced.news (c : Domain) (news : Bool) : c.Paced { c with assuredNews := news } :=
  ⟨_, _, _, _, rfl, .rfl, .rfl, .rfl⟩

/-- Domains that only wait change nothing else. -/
theorem State.Coherent.paced (h : s.Coherent strict fit closed followed) (hdomain : ∀ e, (s.domain e).Paced (t.domain e))
    (ht : t = { s with domains := t.domains }) : t.Coherent strict fit closed followed := by
  have hrail (w : RailId) : t.rail w = s.rail w := by rw [ht]; rfl
  have hlink : t.link = s.link := by rw [ht]
  have hrecord (k : Handle) : t.record k = s.record k := by rw [ht]; rfl
  refine ⟨h.toConsistent.congr (by rw [ht]) hdomain (fun w => by rw [hrail]; exact .refl _)
    (h.consent.congr (by rw [ht]) (by rw [ht]) fun e => by rw [(hdomain e).state.1])
    (h.transfer.congr (by rw [hlink]) (by rw [hlink]) (by rw [hlink]) (by rw [hlink]) fun w _ _ => by rw [hrail])
    (fun e _ _ hf => (State.hasFloor_congr (t := s) e fun k => by rw [hrecord]).trans hf) fun hq e he => ?_,
    h.elected.congr (by rw [hlink]) (by rw [State.linkBusy, hlink]; rfl) fun w => State.waiting_congr (by rw [hrail])⟩
  exact (h.statuses hq e he).congr (hdomain e).state.1 fun k q hk hd => ⟨q, hrecord k ▸ hk, hd, rfl⟩

/-- The news of an assured code (R83). -/
theorem State.Coherent.noteAssured (h : t.Coherent strict fit closed followed) (v : RailId) (s : State) :
    (State.noteAssured v s t).Coherent strict fit closed followed :=
  h.paced (fun e => by rw [State.noteAssured_domain]; exact .news _ _) (State.noteAssured_eq v s t)

/-! ### One rail and the link differ -/

/-- A rail keeps its settings. -/
theorem State.SetupFits.keepsLimits (h : ∀ e, s.SetupFits e) (hsetups : t.setups = s.setups)
    (hmin : (t.rail v).min = (s.rail v).min) (hmax : (t.rail v).max = (s.rail v).max)
    (hfallback : (t.rail v).fallback = (s.rail v).fallback) (e : DomainId) (he : s.railOf e = v) : t.SetupFits e :=
  (h e).congr hsetups (by rw [he, hmin]) (by rw [he, hmax]) (by rw [he, hfallback])

/-- Where rail v fits, and its domains fit it, all relations but its own are kept. -/
theorem State.Consistent.withRail (h : s.Consistent strict fit closed followed) (hsetups : t.setups = s.setups)
    (hdomains : t.domains = s.domains) (hrecords : t.records = s.records) (hpark : t.park = s.park)
    (hother : ∀ w, w ≠ v → t.rail w = s.rail w) (hrail : (t.rail v).Fits)
    (hlimits : ∀ e, s.railOf e = v → t.SetupFits e)
    (hfits : ∀ e, s.railOf e = v → fit e → t.Fits e (s.domain e)) (htransfer : t.TransferSound) :
    t.Consistent strict fit closed fun w => w ≠ v ∧ followed w := by
  have hdomain (e : DomainId) : t.domain e = s.domain e := by rw [State.domain, hdomains]; rfl
  have hrecord (k : Handle) : t.record k = s.record k := by rw [State.record, hrecords]; rfl
  constructor
  case setups =>
    intro e
    by_cases he : s.railOf e = v
    · exact hlimits e he
    · exact (h.setups e).congr hsetups (by rw [hother _ he]) (by rw [hother _ he]) (by rw [hother _ he])
  case fits =>
    intro e hf
    rw [hdomain]
    by_cases he : s.railOf e = v
    · exact hfits e he hf
    · exact (h.fits e hf).similar hsetups (by rw [hother _ he]; exact .refl _)
  case parked =>
    exact fun e he => (h.parked e he).congr (by rw [hdomain]; exact fun hp => ⟨hp, rfl⟩) fun hf =>
      (State.hasFloor_congr (t := s) e fun k => by rw [hrecord]).trans hf
  case statuses =>
    exact fun hq e he => (h.statuses hq e he).congr (by rw [hdomain]) fun k q hk hd => ⟨q, hrecord k ▸ hk, hd, rfl⟩
  case rails =>
    intro w
    by_cases hw : w = v
    · rw [hw]; exact hrail
    · rw [hother w hw]; exact h.rails w
  case consent => exact h.consent.congr (by rw [hpark]) (by rw [hpark]) fun e => by rw [hdomain]
  case transfer => exact htransfer
  case closed => exact fun e he => (h.closed e he).congr hsetups (hdomain e)
  case followed =>
    exact fun w hw => (h.followed w hw.2).congr hsetups (hother w hw.1) fun e _ => by rw [hdomain]; exact ⟨rfl, .rfl⟩

/-! ### The transfer on the link (R89 to R94) -/

/-- The transfer has ended, and no other rail waits for a reply. -/
theorem State.TransferSound.ended (h : s.TransferSound) (htransfer : t.link.transfer = none)
    (htimer : t.link.replyTimer = none) (hrails : ∀ w code tries, (t.rail w).command = .outstanding code tries .awaitingReply →
      (s.rail w).command = .outstanding code tries .awaitingReply ∧ ∀ x ∈ s.link.transfer, x.rail = w →
        x.disregarded = true) : t.TransferSound where
  timer := iff_of_true htransfer htimer
  hold _ := htransfer
  wanted x hx := by rw [htransfer] at hx; cases hx
  awaiting w code tries hw := by
    obtain ⟨hs, hall⟩ := hrails w code tries hw
    obtain ⟨x, hx, hrail, hwanted⟩ := h.awaiting w code tries hs
    rw [hall x hx hrail] at hwanted
    cases hwanted

/-- A frame of rail v has gone out, and the link carried none of another rail. -/
theorem State.TransferSound.begun {x : Transfer} (h : s.TransferSound) (honly : ∀ y ∈ s.link.transfer, y.rail = v)
    (hhold : t.link.resetHold = none) (htransfer : t.link.transfer = some x) (htimer : t.link.replyTimer ≠ none)
    (hbit : x.bit = t.link.bit) (hxv : x.rail = v) (hwanted : x.disregarded = false)
    (hout : (t.rail v).command = .outstanding x.code x.tries .awaitingReply)
    (hother : ∀ w, w ≠ v → (t.rail w).command = (s.rail w).command) : t.TransferSound where
  timer := iff_of_false (by rw [htransfer]; nofun) htimer
  hold hne := absurd hhold hne
  wanted y hy := by
    obtain rfl := Option.some.inj (htransfer.symm.trans hy)
    exact ⟨hbit, fun _ => hxv ▸ hout⟩
  awaiting w code tries hw := by
    by_cases hwv : w = v
    · exact ⟨x, htransfer, hxv.trans hwv.symm, hwanted⟩
    · rw [hother w hwv] at hw
      obtain ⟨y, hy, hyw, -⟩ := h.awaiting w code tries hw
      exact absurd (hyw.symm.trans (honly y hy)) hwv

theorem State.linkBusy_false (h : s.linkBusy = false) : s.link.transfer = none ∧ s.link.resetHold = none := by
  simpa [State.linkBusy] using h

/-! ### A code goes out (R90, R91) -/

/-- A need is the code of a valid level, or the higher of two (Table 4-3). -/
theorem State.Fits.needOf_le {e : DomainId} {n limit : Byte} (h : s.Fits e (s.domain e))
    (hlimit : ∀ l, (s.point e l).valid = true → s.code e l ≤ limit) (hn : s.needOf e = some n) : n ≤ limit := by
  have hcurrent := hlimit _ h.current
  have htarget := hlimit _ h.target
  have hstep (other : Level) (hother : s.code e other ≤ limit) : s.code e ((s.domain e).step.getD other) ≤ limit := by
    cases hl : (s.domain e).step with
    | none => exact hother
    | some l => exact hlimit l (h.step l hl)
  unfold State.needOf at hn
  dsimp only at hn
  split at hn
  case h_8 =>
    split at hn
    · cases hn
    · exact Option.some.inj hn ▸ hstep _ hcurrent
  all_goals cases hn
  · exact hcurrent
  · exact hcurrent
  · exact htarget
  · exact le_higherCode.2 ⟨hcurrent, hstep _ hcurrent⟩
  · exact htarget
  · exact htarget
  · exact le_higherCode.2 ⟨hstep _ htarget, htarget⟩

/-- A FROZEN domain of a rail outside fault handling has a CLOCK fault (R73, R126). -/
theorem State.Fits.frozen_by_clock {d : DomainId} {c : Domain} (h : s.Fits d c) (hfree : (s.rail (s.railOf d)).faulted = false)
    (hs : c.state = .frozen) : c.cause = .clock := by
  obtain ⟨-, -, -, -, -, -, -, -, hcause, -, -⟩ := h.moves
  obtain ⟨hfallback, hheld, -⟩ := Rail.not_faulted.1 hfree
  cases hc : c.cause with
  | none => exact absurd hc (hcause.2 (.inl hs))
  | rail => exact absurd (h.held.2 ⟨hs, hc⟩) (not_or.2 ⟨hfallback, hheld⟩)
  | clock => rfl

/-- A need covers what its domain runs at, and a step of it (R64, R65). -/
theorem State.Fits.needOf_covers {e : DomainId} (h : s.Fits e (s.domain e))
    (hfree : (s.rail (s.railOf e)).faulted = false) :
    ((s.domain e).running = true → ∃ n, s.needOf e = some n ∧ s.code e (s.domain e).current ≤ n ∧
      ∀ l ∈ (s.domain e).step, s.code e l ≤ n) ∧
    ((s.domain e).state = .waking .clock → ∃ n, s.needOf e = some n ∧ ∀ l ∈ (s.domain e).step, s.code e l ≤ n) := by
  have hstep (hne : (s.domain e).state ≠ .stepping ∧ (s.domain e).state ≠ .waking .clock ∧ (s.domain e).state ≠ .frozen)
      (l : Level) (hl : l ∈ (s.domain e).step) : False := by
    obtain hs | hs | ⟨hs, -⟩ := h.moves.step_states (by rw [hl]; nofun)
    exacts [hne.1 hs, hne.2.1 hs, hne.2.2 hs]
  have hfrozen (hs : (s.domain e).state = .frozen) : (s.domain e).gated = true := by
    obtain ⟨-, -, -, -, -, -, -, -, -, -, hclock⟩ := h.moves
    exact hclock (h.frozen_by_clock hfree hs)
  have hhigher (a b : Byte) : a ≤ higherCode a b ∧ b ≤ higherCode a b := le_higherCode.1 (BitVec.le_refl _)
  refine ⟨fun hrun => ?_, fun hclock => ?_⟩
  case refine_2 =>
    refine ⟨_, by rw [State.needOf, hclock], fun l hl => ?_⟩
    rw [show (s.domain e).step = some l from hl]
    exact (hhigher _ _).1
  cases hs : (s.domain e).state with
  | steady => exact ⟨_, by rw [State.needOf, hs], BitVec.le_refl _, fun l hl => (hstep (by simp [hs]) l hl).elim⟩
  | consent => exact ⟨_, by rw [State.needOf, hs], BitVec.le_refl _, fun l hl => (hstep (by simp [hs]) l hl).elim⟩
  | raising =>
    exact ⟨_, by rw [State.needOf, hs], BitVec.le_of_lt (h.raising hfree hs), fun l hl => (hstep (by simp [hs]) l hl).elim⟩
  | stepping =>
    refine ⟨_, by rw [State.needOf, hs], (hhigher _ _).1, fun l hl => ?_⟩
    rw [show (s.domain e).step = some l from hl]
    exact (hhigher _ _).2
  | frozen => simp [Domain.running, hs, hfrozen hs] at hrun
  | _ => simp [Domain.running, hs] at hrun

/-- The required code of a rail is not below the need of a domain of it (R85). -/
theorem State.need_le_required {e : DomainId} {n : Byte} (hneed : (s.domain e).need = some n)
    (hmax : n ≤ (s.rail (s.railOf e)).max) (hparked : (s.domain e).state ≠ .parked) :
    n ≤ s.requiredCode (s.railOf e) := by
  have hmem : n ∈ s.needs (s.railOf e) := State.mem_needs.2 ⟨e, rfl, hneed⟩
  rw [State.requiredCode_of_needs (fun hall => hparked (State.allParked_iff.1 hall e rfl)) (List.ne_nil_of_mem hmem)]
  exact le_lowerCode.2 ⟨hmax, BitVec.le_trans (highestCode_le.1 (BitVec.le_refl _) n hmem)
    (le_higherCode.1 (BitVec.le_refl _)).2⟩

/-- What a rail requires covers the running clocks of its domains, and their steps (R65, R85). -/
theorem State.Coherent.required_covers (h : s.Whole strict) (e : DomainId)
    (hfree : (s.rail (s.railOf e)).faulted = false) :
    ((s.domain e).running = true → s.code e (s.domain e).current ≤ (s.rail (s.railOf e)).required ∧
      ∀ l ∈ (s.domain e).step, s.code e l ≤ (s.rail (s.railOf e)).required) ∧
    ((s.domain e).state = .waking .clock → ∀ l ∈ (s.domain e).step, s.code e l ≤ (s.rail (s.railOf e)).required) := by
  have hfits := h.fits e trivial
  obtain ⟨hrunning, hclock⟩ := hfits.needOf_covers hfree
  rw [(h.followed (s.railOf e) trivial).required]
  have hrequired (n : Byte) (hn : s.needOf e = some n) : n ≤ s.requiredCode (s.railOf e) := by
    refine State.need_le_required ((h.closed e trivial).1.trans hn)
      (hfits.needOf_le (fun l hl => ((h.setups e).inside l hl).2) hn) fun hparked => ?_
    rw [State.needOf, hparked] at hn
    cases hn
  refine ⟨fun hrun => ?_, fun hc l hl => ?_⟩
  · obtain ⟨n, hn, hcurrent, hstep⟩ := hrunning hrun
    exact ⟨BitVec.le_trans hcurrent (hrequired n hn), fun l hl => BitVec.le_trans (hstep l hl) (hrequired n hn)⟩
  · obtain ⟨n, hn, hstep⟩ := hclock hc
    exact BitVec.le_trans (hstep l hl) (hrequired n hn)

/-- A domain fits its rail after a change of the rail's command where the assured code still covers it. -/
theorem State.Fits.covered_anew {e : DomainId} {c : Domain} (h : s.Fits e c) (hsetups : t.setups = s.setups)
    (hstate : (t.rail (s.railOf e)).state = (s.rail (s.railOf e)).state)
    (hfallback : (t.rail (s.railOf e)).fallback = (s.rail (s.railOf e)).fallback)
    (hcommand : (s.rail (s.railOf e)).state = .fallback → (t.rail (s.railOf e)).command ≠ .none →
      (s.rail (s.railOf e)).command ≠ .none)
    (hcovers : (s.rail (s.railOf e)).faulted = false →
      (c.running = true → s.code e c.current ≤ t.assured (s.railOf e) ∧ ∀ l ∈ c.step, s.code e l ≤ t.assured (s.railOf e)) ∧
      (c.state = .waking .clock → ∀ l ∈ c.step, s.code e l ≤ t.assured (s.railOf e))) : t.Fits e c := by
  have hp := State.point_congr hsetups e
  have hc := State.code_congr hsetups e
  have hv := State.railOf_congr hsetups e
  have hfree (hf : (t.rail (t.railOf e)).faulted = false) : (s.rail (s.railOf e)).faulted = false := by
    rw [hv, Rail.not_faulted, hstate] at hf
    exact Rail.not_faulted.2 hf
  constructor
  case current => rw [hp]; exact h.current
  case target => rw [hp]; exact h.target
  case step => intro l hl; rw [hp]; exact h.step l hl
  case moves => exact h.moves
  case held => rw [hv, hstate]; exact h.held
  case shut => rw [hv, hstate]; exact h.shut
  case inPlace =>
    rw [hv, hstate]
    exact fun hr => h.inPlace (hr.imp_right fun ⟨hs, hne⟩ => ⟨hs, hcommand hs hne⟩)
  case frozen => rw [hv, hc, hfallback]; exact h.frozen
  case running => intro hf; simp only [hv, hc]; exact (hcovers (hfree hf)).1
  case clock => intro hf; simp only [hv, hc]; exact (hcovers (hfree hf)).2
  case raising => intro hf; rw [hc, hc]; exact h.raising (hfree hf)

/-- A queued code goes out. -/
theorem Rail.Fits.sends {r : Rail} {code : Byte} (h : r.Fits) (hqueued : r.command = .queued code)
    (hne : r.faulted = false → code ≠ r.confirmed) (tries : Try) (phase : CommandPhase) :
    Rail.Fits { r with command := .outstanding code tries phase } := by
  have hcode : r.command.code? = some code := by rw [hqueued]; rfl
  refine ⟨h.window, h.fallback, h.retention, h.stepTime, h.cause, fun hs => ?_, fun hs => ?_, fun hs c hc => ?_,
    fun c hc => ?_, fun hf c _ _ hout => ?_⟩
  · exact nomatch hqueued.symm.trans (h.held hs).2
  · exact nomatch hqueued.symm.trans (h.shut hs)
  · exact h.falling hs c (hcode.trans hc)
  · exact h.command c (hcode.trans hc)
  · injection hout with hsame
    exact hsame ▸ hne hf

theorem State.Coherent.sent (h : s.Whole strict) {code : Byte} (hfree : s.linkBusy = false)
    (hqueued : (s.rail v).command = .queued code) : (s.sent v code).Whole strict := by
  have hrail := s.sent_rail v code
  have hown : (s.sent v code).rail v = { s.rail v with command := .outstanding code .one .awaitingReply } := by
    rw [hrail, if_pos rfl]
  have hother (w : RailId) (hw : w ≠ v) : (s.sent v code).rail w = s.rail w := by rw [hrail, if_neg hw]
  obtain ⟨htransfer, hhold⟩ := State.linkBusy_false hfree
  have hfollowed := h.followed v trivial
  have hrest : (s.sent v code).Consistent strict (fun _ => True) (fun _ => True) fun w => w ≠ v ∧ True := by
    refine h.toConsistent.withRail rfl rfl rfl rfl hother ?_ (State.SetupFits.keepsLimits h.setups rfl ?_ ?_ ?_)
      (fun e he _ => ?_) (h.transfer.begun (v := v) ?_ hhold rfl nofun rfl rfl rfl ?_ fun w hw => by rw [hother w hw])
    · rw [hown]
      exact (h.rails v).sends hqueued (fun hf => (hfollowed.queued hf code hqueued).2) _ _
    · rw [hown]
    · rw [hown]
    · rw [hown]
    · refine (h.fits e trivial).covered_anew rfl (by rw [he, hown]) (by rw [he, hown])
        (fun _ _ => by rw [he, hqueued]; nofun) fun hf => ?_
      have hbefore : s.assured (s.railOf e) = (s.rail v).confirmed := by
        rw [he]; exact Rail.assured_of_not_outstanding fun _ _ _ hout => nomatch hqueued.symm.trans hout
      have hafter : (s.sent v code).assured (s.railOf e) = lowerCode (s.rail v).confirmed code := by
        rw [he, State.assured, hown]; rfl
      have hcode : (s.rail (s.railOf e)).required = code := by
        rw [he] at hf ⊢; exact (hfollowed.queued hf code hqueued).1.symm
      obtain ⟨hrun, hclock⟩ := h.required_covers e hf
      have hcovers (l : Level) (ha : s.code e l ≤ s.assured (s.railOf e)) (hr : s.code e l ≤ (s.rail (s.railOf e)).required) :
          s.code e l ≤ (s.sent v code).assured (s.railOf e) := by
        rw [hafter]
        exact le_lowerCode.2 ⟨hbefore ▸ ha, hcode ▸ hr⟩
      refine ⟨fun hr => ?_, fun hc l hl => hcovers l ((h.fits e trivial).clock hf hc l hl) (hclock hc l hl)⟩
      obtain ⟨hcurrent, hstep⟩ := (h.fits e trivial).running hf hr
      obtain ⟨hcurrent', hstep'⟩ := hrun hr
      exact ⟨hcovers _ hcurrent hcurrent', fun l hl => hcovers l (hstep l hl) (hstep' l hl)⟩
    · rw [htransfer]; nofun
    · rw [hown]
  have helected : (s.sent v code).ElectedSound := ⟨nofun, nofun⟩
  refine ⟨{ hrest with followed := fun w _ => ?_ }, helected⟩
  by_cases hw : w = v
  case neg => exact hrest.followed w ⟨hw, trivial⟩
  case pos =>
    have hrequired : (s.sent v code).requiredCode v = s.requiredCode v :=
      State.requiredCode_congr rfl (fun _ _ => ⟨rfl, .rfl⟩) (by rw [hown]; exact ⟨rfl, rfl, rfl⟩)
    rw [hw]
    refine ⟨by rw [hrequired, hown]; exact hfollowed.required, ?_, ?_, ?_⟩ <;> rw [hown]
    · exact fun _ hn => nomatch hn
    · exact fun _ c hc => nomatch hc
    · intro hf
      have hordinary := hfollowed.state hf
      rw [Rail.ordinaryState, hqueued] at hordinary
      exact hordinary

theorem execLinkSend_keeps (h : s.Whole strict) : ∃ t, execLinkSend s = .next t ∧ t.Whole strict := by
  unfold execLinkSend
  split
  · exact ⟨s, rfl, h⟩
  · next hfree =>
    rw [Bool.not_eq_true] at hfree
    split
    · exact ⟨s, rfl, h⟩
    · next v _ =>
      split
      · next code hqueued => exact ⟨_, rfl, (h.sent hfree hqueued).noteAssured v s⟩
      · exact ⟨s, rfl, h⟩

end Sys2Proof.Machine
end

section
/-! PROOFS. The faults of a rail keep the relations of a sound state: entry to FALLBACK, the fallback command, and
SHUTDOWN. -/

-- The proofs are elaborated one after another: side by side they would exceed the memory that the check allows.
set_option Elab.async false

namespace Sys2Proof.Machine

variable {strict : Prop} {s t u : State} {v : RailId}

/-! ### A domain as its rail freezes it or switches it off -/

/-- A domain whose rail is in FALLBACK without a command fits it where it is FROZEN by the rail, with a running clock
only within the fallback code (R126, R127, R130). -/
theorem State.Fits.of_falling {e : DomainId} {c : Domain} (hstate : (t.rail (t.railOf e)).state = .fallback)
    (hcommand : (t.rail (t.railOf e)).command = .none) (hcurrent : (t.point e c.current).valid = true)
    (htarget : (t.point e c.target).valid = true) (hstep : ∀ l ∈ c.step, (t.point e l).valid = true)
    (hmoves : c.MovesSound) (hfrozen : c.state = .frozen) (hcause : c.cause = .rail)
    (hcode : c.gated = false → t.code e (c.step.getD c.current) ≤ (t.rail (t.railOf e)).fallback) : t.Fits e c := by
  have hfaulted : (t.rail (t.railOf e)).faulted ≠ false := by simp [Rail.faulted, hstate]
  refine ⟨hcurrent, htarget, hstep, hmoves, iff_of_true (.inl hstate) ⟨hfrozen, hcause⟩, iff_of_false ?_ ?_, fun hr => ?_,
    fun _ => hcode, fun hf => absurd hf hfaulted, fun hf => absurd hf hfaulted, fun hf => absurd hf hfaulted⟩
  · rw [hstate]; nofun
  · rw [hfrozen]; nofun
  · obtain hh | ⟨-, hne⟩ := hr
    · rw [hstate] at hh; cases hh
    · exact absurd hcommand hne

/-- The freeze of a domain of a rail outside fault handling (Table 7-2). -/
theorem State.Fits.freeze {e : DomainId} (h : s.Fits e (s.domain e)) (hsetup : s.SetupFits e)
    (hfree : (s.rail (s.railOf e)).faulted = false) (hsetups : t.setups = s.setups)
    (hstate : (t.rail (s.railOf e)).state = .fallback) (hcommand : (t.rail (s.railOf e)).command = .none)
    (hfallback : (t.rail (s.railOf e)).fallback = (s.rail (s.railOf e)).fallback) :
    t.Fits e ((s.domain e).afterFreeze (s.setup e)) := by
  have hp := State.point_congr hsetups e
  have hc := State.code_congr hsetups e
  have hv := State.railOf_congr hsetups e
  have hoff : (s.domain e).state ≠ .off := fun hs => (Rail.not_faulted.1 hfree).2.2 (h.shut.2 hs)
  have hsafe : t.code e (s.config e).safe ≤ (t.rail (t.railOf e)).fallback := by
    rw [hv, hc, hfallback]; exact hsetup.fallback
  have hsafeValid : (t.point e (s.config e).safe).valid = true := hp _ ▸ hsetup.safe
  have hcurrent : (t.point e (s.domain e).current).valid = true := hp _ ▸ h.current
  have htarget : (t.point e (s.domain e).target).valid = true := hp _ ▸ h.target
  obtain ⟨hsettled, hsteady, hgate, hmoving, hinflight, htimer, hdue, hgateTimer, hcause, hoff', hclock⟩ := h.moves
  rw [← hv] at hstate hcommand
  obtain ⟨hs, hat, hgated, hstep⟩ | ⟨hs, hgated⟩ | ⟨hs, hstep⟩ | hs := h.moves.freeze_cases hoff (s.config e).safe
  · rw [Domain.afterFreeze_here _ hs hat hgated hstep]
    refine .of_falling hstate hcommand hcurrent htarget (fun l hl => nomatch hstep.symm.trans hl) ?_ rfl rfl fun _ => ?_
    · have hlock : (s.domain e).lockTimer = none := by
        by_contra hne; exact (htimer hne).1 hstep
      simp [Domain.MovesSound, Domain.frozenBy, DomainState.gate, hstep, hlock]
    · rw [show ((s.domain e).frozenBy _).step = _ from hstep]
      change t.code e (s.domain e).current ≤ _
      rw [hat]
      exact hsafe
  · rw [Domain.afterFreeze_steps _ hs hgated]
    refine .of_falling hstate hcommand hcurrent htarget (fun l hl => ?_) ?_ rfl rfl fun _ => hsafe
    · exact Option.some.inj hl ▸ hsafeValid
    · simp [Domain.MovesSound, Domain.frozenBy, DomainState.gate, hgated]
  · rw [Domain.afterFreeze_gated _ hs]
    refine .of_falling hstate hcommand hcurrent htarget (fun l hl => nomatch hstep.symm.trans hl) ?_ rfl rfl nofun
    · have hlock : (s.domain e).lockTimer = none := by
        by_contra hne; exact (htimer hne).1 hstep
      simp [Domain.MovesSound, Domain.frozenBy, DomainState.gate, hstep, hlock]
  · have hgated : (s.domain e).gated = true := by
      obtain ⟨hfallback, hheld, -⟩ := Rail.not_faulted.1 hfree
      cases hcs : (s.domain e).cause with
      | none => exact absurd hcs (hcause.2 (.inl hs))
      | rail => exact absurd (h.held.2 ⟨hs, hcs⟩) (not_or.2 ⟨hfallback, hheld⟩)
      | clock => exact hclock hcs
    have hstep : (s.domain e).step = none := by
      by_contra hne
      obtain e1 | e1 | ⟨-, e1⟩ := h.moves.step_states hne
      · rw [hs] at e1; cases e1
      · rw [hs] at e1; cases e1
      · rw [hgated] at e1; cases e1
    rw [Domain.afterFreeze_frozen _ hs]
    refine .of_falling hstate hcommand hcurrent htarget (fun l hl => nomatch hstep.symm.trans hl) ?_ rfl rfl fun hg => ?_
    · have hlock : (s.domain e).lockTimer = none := by
        by_contra hne; exact (htimer hne).1 hstep
      simp [Domain.MovesSound, Domain.frozenBy, DomainState.gate, hstep, hlock, hgated]
    · exact nomatch hgated.symm.trans hg

/-- A domain that is OFF fits a rail in SHUTDOWN (R131). -/
theorem State.Fits.off {e : DomainId} {c : Domain} (h : s.Fits e c) (hsetups : t.setups = s.setups)
    (hstate : (t.rail (s.railOf e)).state = .shutdown) : t.Fits e c.off := by
  have hp := State.point_congr hsetups e
  rw [← State.railOf_congr hsetups] at hstate
  have hfaulted : (t.rail (t.railOf e)).faulted ≠ false := by simp [Rail.faulted, hstate]
  refine ⟨hp _ ▸ h.current, hp _ ▸ h.target, nofun, ?_, iff_of_false ?_ nofun, iff_of_true hstate rfl, ?_, nofun,
    fun hf => absurd hf hfaulted, fun hf => absurd hf hfaulted, fun hf => absurd hf hfaulted⟩
  · simp [Domain.MovesSound, Domain.off, DomainState.gate]
  · rw [hstate]; nofun
  · rw [hstate]; nofun

/-- The need of a frozen domain is that of Table 4-3, and its quiet timer has stopped. -/
theorem State.Closed.freeze {e : DomainId} (hmoves : (s.domain e).MovesSound) (hoff : (s.domain e).state ≠ .off)
    (hsetups : t.setups = s.setups) (hdomain : t.domain e = (s.domain e).afterFreeze (s.setup e)) : t.Closed e := by
  have hc (l : Level) : t.code e l = (s.setup e).points[l].volt := State.code_congr hsetups e l
  obtain ⟨hs, hat, hgated, hstep⟩ | ⟨hs, hgated⟩ | ⟨hs, hstep⟩ | hs := hmoves.freeze_cases hoff (s.config e).safe
  · rw [Domain.afterFreeze_here _ hs hat hgated hstep] at hdomain
    have hsafe : (s.domain e).current = (s.setup e).config.safe := hat
    simp [State.Closed, State.needOf, hdomain, Domain.frozenBy, hgated, hstep, hc, hsafe]
  · rw [Domain.afterFreeze_steps _ hs hgated] at hdomain
    simp [State.Closed, State.needOf, hdomain, Domain.frozenBy, hgated, hc]
  · rw [Domain.afterFreeze_gated _ hs] at hdomain
    simp [State.Closed, State.needOf, hdomain, Domain.frozenBy]
  · rw [Domain.afterFreeze_frozen _ hs] at hdomain
    simp [State.Closed, State.needOf, hdomain, Domain.frozenBy, hc]

theorem Domain.afterFreeze_state {c : Domain} (x : Setup) (hmoves : c.MovesSound) (hoff : c.state ≠ .off) :
    (c.afterFreeze x).state = .frozen := by
  obtain ⟨hs, hat, hgated, hstep⟩ | ⟨hs, hgated⟩ | ⟨hs, hstep⟩ | hs := hmoves.freeze_cases hoff x.config.safe
  · rw [Domain.afterFreeze_here _ hs hat hgated hstep]; rfl
  · rw [Domain.afterFreeze_steps _ hs hgated]; rfl
  · rw [Domain.afterFreeze_gated _ hs]; rfl
  · rw [Domain.afterFreeze_frozen _ hs]; rfl

/-! ### The channel without the domains of a rail (R114) -/

theorem State.ConsentSound.without (h : s.ConsentSound) (hpark : t.park = s.parkWithout fun e => s.railOf e = v)
    (hstates : ∀ e, (t.domain e).state = .consent ↔ (s.domain e).state = .consent ∧ s.railOf e ≠ v) :
    t.ConsentSound := by
  have hleft := s.leaveAll_eq (s.mapped v)
  have hserved := s.leaveAll_serve_park (s.mapped v)
  have hsame := State.parkWithout_congr (s := s) (t := s) rfl rfl fun e => State.mem_mapped (s := s) (v := v) (d := e)
  rw [hsame, ← hpark, hleft] at hserved
  have hmid : State.ConsentSound { t with
      pins := s.pins
      park := { s.park with
        queue := s.park.queue.filter fun e => e ∉ s.mapped v
        request := s.park.request.filter fun x => x.1 ∉ s.mapped v } } :=
    h.leave rfl rfl fun e => by rw [State.mem_mapped]; exact hstates e
  refine hmid.serve.congr ?_ ?_ fun e => by rw [State.serveConsent_domain]; rfl
  all_goals
    rw [← hserved, State.serveConsent_park, State.serveConsent_park]
    rfl

/-! ### Entry to FALLBACK and to SHUTDOWN (R125 to R131) -/

/-- The domains of rail v take its fault as `freeze`, their records become HELD, and rail v has no command. -/
theorem State.Consistent.fault (h : s.Consistent strict (fun _ => True) (fun _ => True) fun w => w ≠ v ∧ True)
    {c : DomainId → Domain} (hsetups : t.setups = s.setups)
    (hdomain : ∀ e, t.domain e = if s.railOf e = v then c e else s.domain e)
    (hrecord : ∀ k, t.record k = (s.record k).map fun r => if s.railOf r.domain = v then { r with status := .held } else r)
    (hrail : ∀ w, w ≠ v → t.rail w = s.rail w) (hown : (t.rail v).Fits) (hmin : (t.rail v).min = (s.rail v).min)
    (hmax : (t.rail v).max = (s.rail v).max) (hfallback : (t.rail v).fallback = (s.rail v).fallback)
    (hstate : ∀ e, s.railOf e = v → (c e).state = .frozen ∨ (c e).state = .off)
    (hfits : ∀ e, s.railOf e = v → t.Fits e (c e)) (hclosed : ∀ e, s.railOf e = v → t.domain e = c e → t.Closed e)
    (hconsent : t.ConsentSound) (htransfer : t.TransferSound) :
    t.Consistent strict (fun _ => True) (fun _ => True) fun w => w ≠ v ∧ True := by
  have hon (e : DomainId) (he : s.railOf e = v) : t.domain e = c e := (hdomain e).trans (if_pos he)
  have hoff (e : DomainId) (he : s.railOf e ≠ v) : t.domain e = s.domain e := (hdomain e).trans (if_neg he)
  have hfloor (e : DomainId) : t.hasFloor e = s.hasFloor e := State.hasFloor_congr e fun k => by
    rw [hrecord, Option.map_map]
    refine congrArg (fun f => Option.map f (s.record k)) (funext fun r => ?_)
    dsimp only [Function.comp]
    split <;> rfl
  constructor
  case setups =>
    intro e
    by_cases he : s.railOf e = v
    · exact State.SetupFits.keepsLimits h.setups hsetups hmin hmax hfallback e he
    · exact (h.setups e).congr hsetups (by rw [hrail _ he]) (by rw [hrail _ he]) (by rw [hrail _ he])
  case fits =>
    intro e _
    by_cases he : s.railOf e = v
    · rw [hon e he]; exact hfits e he
    · rw [hoff e he]; exact (h.fits e trivial).similar hsetups (by rw [hrail _ he]; exact .refl _)
  case parked =>
    intro e _
    by_cases he : s.railOf e = v
    · intro hparked
      rw [hon e he] at hparked
      obtain hs | hs := hstate e he <;> rw [hs] at hparked <;> cases hparked
    · exact (h.parked e trivial).congr (by rw [hoff e he]; exact fun hp => ⟨hp, rfl⟩) fun hf => hfloor e ▸ hf
  case statuses =>
    intro hq e _ k q hk hd
    rw [hrecord] at hk
    obtain ⟨r, hr, rfl⟩ := Option.map_eq_some_iff.1 hk
    by_cases he : s.railOf r.domain = v
    · rw [if_pos he] at hd ⊢
      obtain rfl : r.domain = e := hd
      rw [hon _ he]
      exact ⟨iff_of_true rfl (hstate _ he), fun hs => hs.elim nofun nofun⟩
    · rw [if_neg he] at hd ⊢
      obtain rfl : r.domain = e := hd
      rw [hoff _ he]
      exact h.statuses hq _ trivial k r hr rfl
  case rails =>
    intro w
    by_cases hw : w = v
    · rw [hw]; exact hown
    · rw [hrail w hw]; exact h.rails w
  case consent => exact hconsent
  case transfer => exact htransfer
  case closed =>
    intro e _
    by_cases he : s.railOf e = v
    · exact hclosed e he (hon e he)
    · exact (h.closed e trivial).congr hsetups (hoff e he)
  case followed =>
    exact fun w hw => (h.followed w hw).congr hsetups (hrail w hw.1) fun e he => by
      rw [hoff e fun hev => hw.1 (he.symm.trans hev)]; exact ⟨rfl, .rfl⟩

/-- A rail without a command fits as its fault leaves it (R84, R125, R131). -/
theorem Rail.Fits.fall {r : Rail} (h : r.Fits) {cause : RailCause} (hcause : cause ≠ .none) : (r.falling cause).Fits :=
  ⟨h.window, h.fallback, h.retention, h.stepTime, iff_of_true hcause rfl, nofun, nofun, nofun, nofun, nofun⟩

theorem Rail.Fits.shut_down {r : Rail} (h : r.Fits) {cause : RailCause} (hcause : cause ≠ .none) : (r.shut cause).Fits :=
  ⟨h.window, h.fallback, h.retention, h.stepTime, iff_of_true hcause rfl, nofun, fun _ => rfl, nofun, nofun, nofun⟩

/-- A rail in FALLBACK whose domains are all frozen in place takes its fallback command (R129). -/
theorem State.Coherent.fallbackCheck (h : s.Whole strict) (v : RailId) : (s.fallbackCheck v).Whole strict := by
  rw [State.fallbackCheck_eq]
  split
  case isFalse => exact h
  case isTrue hcheck =>
    obtain ⟨hstate, hnone, hplace⟩ := hcheck
    have hown : (s.setRail v { s.rail v with command := .queued (s.rail v).fallback }).rail v =
        { s.rail v with command := .queued (s.rail v).fallback } := State.setRail_rail_self ..
    have hother (w : RailId) (hw : w ≠ v) :
        (s.setRail v { s.rail v with command := .queued (s.rail v).fallback }).rail w = s.rail w := by
      rw [State.setRail_rail, if_neg hw]
    have hfits := h.rails v
    have hrest : (s.setRail v { s.rail v with command := .queued (s.rail v).fallback }).Consistent strict
        (fun _ => True) (fun _ => True) fun w => w ≠ v ∧ True := by
      refine h.toConsistent.withRail rfl rfl rfl rfl hother ?_ (State.SetupFits.keepsLimits h.setups rfl ?_ ?_ ?_)
        (fun e he _ => ?_) (h.transfer.congr rfl .rfl .rfl rfl fun w code tries => ?_)
      · rw [hown]
        refine ⟨hfits.window, hfits.fallback, hfits.retention, hfits.stepTime, hfits.cause, fun hs => ?_, fun hs => ?_,
          fun _ c hc => (Option.some.inj hc).symm, fun c hc => Option.some.inj hc ▸ hfits.fallback, nofun⟩
        · exact nomatch hstate.symm.trans hs
        · exact nomatch hstate.symm.trans hs
      · rw [hown]
      · rw [hown]
      · rw [hown]
      · have hfaulted : (s.rail (s.railOf e)).faulted = true := by simp [Rail.faulted, he, hstate]
        obtain ⟨h1, h2, h3, h4, h5, h6, -, h8, -, -, -⟩ := h.fits e trivial
        have hfree {p : Prop} (hf : ((s.setRail v { s.rail v with command := .queued (s.rail v).fallback }).rail
            (s.railOf e)).faulted = false) : p := by
          rw [he, hown] at hf
          rw [he] at hfaulted
          exact nomatch hfaulted.symm.trans hf
        refine ⟨h1, h2, h3, h4, ?_, ?_, fun _ => hplace e he, ?_, hfree, hfree, hfree⟩
        all_goals
          rw [State.setRail_railOf, he, hown]
          rw [he] at h5 h6 h8
        exacts [h5, h6, h8]
      · by_cases hw : w = v
        · rw [hw, hown, hnone]; exact iff_of_false nofun nofun
        · rw [hother w hw]
    refine ({ hrest with followed := fun w _ => ?_ } : State.Consistent ..).chooseRail
    by_cases hw : w = v
    · have hrequired : (s.setRail v { s.rail v with command := .queued (s.rail v).fallback }).requiredCode v =
          s.requiredCode v :=
        State.requiredCode_congr rfl (fun _ _ => ⟨rfl, .rfl⟩) (by rw [hown]; exact ⟨rfl, rfl, rfl⟩)
      have hfaulted : Rail.faulted { s.rail v with command := .queued (s.rail v).fallback } ≠ false := by
        simp [Rail.faulted, hstate]
      rw [hw]
      refine ⟨by rw [hrequired, hown]; exact (h.followed v trivial).required, ?_, ?_, ?_⟩ <;> rw [hown] <;>
        exact fun hf => absurd hf hfaulted
    · exact hrest.followed w ⟨hw, trivial⟩

section Entry
variable {cause : RailCause} (h : s.Consistent strict (fun _ => True) (fun _ => True) fun w => w ≠ v ∧ True)
  (hnone : (s.rail v).command = .none) (hcause : cause ≠ .none)
include h hnone hcause

theorem State.Consistent.enterFallback (hfree : (s.rail v).faulted = false) : (s.enterFallback v cause).Whole strict := by
  obtain ⟨hrest, hdomain, hrecord⟩ := s.frozenRail_hold v cause
  have hrail := s.frozenRail_rail v cause
  have hown : (s.frozenRail v cause).rail v = (s.rail v).falling cause := by rw [hrail, if_pos rfl]
  have hother (w : RailId) (hw : w ≠ v) : (s.frozenRail v cause).rail w = s.rail w := by rw [hrail, if_neg hw]
  have hsetups : (s.frozenRail v cause).setups = s.setups := by rw [hrest, State.falling_eq]
  have hlink : (s.frozenRail v cause).link = (s.falling v cause).link := by rw [hrest]
  have hoff (e : DomainId) (he : s.railOf e = v) : (s.domain e).state ≠ .off := fun hs =>
    (Rail.not_faulted.1 hfree).2.2 (he ▸ (h.fits e trivial).shut.2 hs)
  have hfrozen (e : DomainId) (he : s.railOf e = v) : ((s.domain e).afterFreeze (s.setup e)).state = .frozen :=
    Domain.afterFreeze_state _ (h.fits e trivial).moves (hoff e he)
  have hmid := h.fault hsetups hdomain hrecord hother (by rw [hown]; exact (h.rails v).fall hcause) (by rw [hown]; rfl)
    (by rw [hown]; rfl) (by rw [hown]; rfl) (fun e he => .inl (hfrozen e he)) (fun e he => ?fits)
    (fun e he hd => .freeze (h.fits e trivial).moves (hoff e he) hsetups hd) ?consent ?transfer
  case fits =>
    exact (h.fits e trivial).freeze (h.setups e) (he ▸ hfree) hsetups (by rw [he, hown]; rfl) (by rw [he, hown]; rfl)
      (by rw [he, hown]; rfl)
  case consent =>
    refine h.consent.without (by rw [hrest, State.falling_eq]) fun e => ?_
    rw [hdomain]
    split
    · next he => rw [hfrozen e he]; exact iff_of_false nofun fun hc => hc.2 he
    · next he => exact (and_iff_left he).symm
  case transfer =>
    have hstopped : (s.falling v cause).link = { s.link with
        transfer := s.link.transfer.map fun x => if x.rail = v then { x with disregarded := true } else x
        elected := (s.falling v cause).link.elected } := by
      unfold State.falling
      dsimp only
      rw [State.chooseRail_eq, State.disregard_eq]
      rfl
    obtain ⟨htimer, hhold, hwanted, hawaiting⟩ := h.transfer
    rw [← hlink] at hstopped
    refine ⟨?_, fun hne => ?_, fun x hx => ?_, fun w code tries hw => ?_⟩
    · rw [hstopped, ← htimer]; exact Option.map_eq_none_iff
    · rw [hstopped] at hne ⊢; exact Option.map_eq_none_iff.2 (hhold hne)
    · rw [hstopped] at hx ⊢
      obtain ⟨y, hy, rfl⟩ := Option.map_eq_some_iff.1 hx
      by_cases hyv : y.rail = v
      · rw [if_pos hyv]; exact ⟨(hwanted y hy).1, nofun⟩
      · rw [if_neg hyv, hother _ hyv]; exact hwanted y hy
    · have hwv : w ≠ v := by
        rintro rfl
        rw [hown] at hw
        cases hw
      rw [hother w hwv] at hw
      obtain ⟨x, hx, hxw, hxd⟩ := hawaiting w code tries hw
      refine ⟨x, ?_, hxw, hxd⟩
      rw [hstopped, Option.mem_def, Option.map_eq_some_iff]
      exact ⟨x, hx, if_neg fun hxv => hwv (hxw.symm.trans hxv)⟩
  have helected : (s.frozenRail v cause).ElectedSound := by
    have hchosen := ((s.setRail v ((s.rail v).falling cause)).disregard v).chooseRail_electedSound
    refine hchosen.congr (by rw [hlink]; rfl) (by rw [State.linkBusy, hlink]; rfl) fun w => State.waiting_congr ?_
    rw [hrest]
    rfl
  rw [State.enterFallback_eq]
  refine State.Coherent.fallbackCheck (((State.Coherent.mk hmid helected).reevaluate v).mono (fun _ => id) (fun _ => id)
    fun w _ => ?_) v
  by_cases hw : w = v
  · exact .inl hw
  · exact .inr ⟨hw, trivial⟩

theorem State.Consistent.enterShutdown (hfaulted : (s.rail v).state = .fallback ∨ (s.rail v).state = .held) :
    (s.enterShutdown v cause).Whole strict := by
  obtain ⟨hrest, hdomain, hrecord⟩ := s.switchedOff_hold v cause
  have hrail := s.switchedOff_rail v cause
  have hown : (s.switchedOff v cause).rail v = (s.rail v).shut cause := by rw [hrail, if_pos rfl]
  have hother (w : RailId) (hw : w ≠ v) : (s.switchedOff v cause).rail w = s.rail w := by rw [hrail, if_neg hw]
  have hframe := hrest
  rw [State.shutting_eq] at hframe
  have hsetups : (s.switchedOff v cause).setups = s.setups := by rw [hframe]
  have hmid := h.fault hsetups hdomain hrecord hother (by rw [hown]; exact (h.rails v).shut_down hcause)
    (by rw [hown]; rfl) (by rw [hown]; rfl) (by rw [hown]; rfl) (fun e _ => .inr rfl)
    (fun e he => (h.fits e trivial).off hsetups (by rw [he, hown]; rfl)) (fun e he hd => ?closed) ?consent ?transfer
  case closed =>
    rw [State.Closed, State.needOf, hd]
    exact ⟨rfl, fun hq => absurd rfl hq⟩
  case consent =>
    refine h.consent.congr (by rw [hframe]) (by rw [hframe]) fun e => ?_
    rw [hdomain]
    split
    · next he =>
      rw [((h.fits e trivial).held.1 (he ▸ hfaulted)).1]
      exact iff_of_false nofun nofun
    · exact .rfl
  case transfer =>
    refine h.transfer.congr (by rw [hframe]) (by rw [hframe]) (by rw [hframe]) (by rw [hframe]) fun w code tries => ?_
    by_cases hw : w = v
    · rw [hw, hown, hnone]; exact iff_of_false nofun nofun
    · rw [hother w hw]
  have helected : (s.switchedOff v cause).ElectedSound := by
    have hchosen := (s.setRail v ((s.rail v).shut cause)).chooseRail_electedSound
    have hlink : (s.switchedOff v cause).link = (s.shutting v cause).link := by rw [hrest]
    refine hchosen.congr (by rw [hlink]; rfl) (by rw [State.linkBusy, hlink]; rfl) fun w => State.waiting_congr ?_
    rw [hrest]
    rfl
  rw [State.enterShutdown_eq]
  refine ((State.Coherent.mk hmid helected).reevaluate v).mono (fun _ => id) (fun _ => id) fun w _ => ?_
  by_cases hw : w = v
  · exact .inl hw
  · exact .inr ⟨hw, trivial⟩

end Entry

end Sys2Proof.Machine
end

section
/-! PROOFS. The outcome of a command and of a try keeps the relations of a sound state, and so do the falls of PG and the end
of the reset hold. -/

-- The proofs are elaborated one after another: side by side they would exceed the memory that the check allows.
set_option Elab.async false

namespace Sys2Proof.Machine

variable {strict : Prop} {s t u : State} {v : RailId} {code : Byte}

theorem State.setRail_setRail (s : State) (v : RailId) (r q : Rail) : (s.setRail v r).setRail v q = s.setRail v q := by
  simp [State.setRail]

/-! ### A command that is about to end -/

/-- The command of rail v with the code is outstanding in `s`, and `u` is `s` but for PG and for its transfer, which has
ended where there was one. -/
structure State.Decides (strict : Prop) (v : RailId) (code : Byte) (s u : State) : Prop where
  whole : s.Whole strict
  setups : u.setups = s.setups
  domains : u.domains = s.domains
  records : u.records = s.records
  park : u.park = s.park
  rails : u.rails = s.rails
  out : ∃ tries phase, (s.rail v).command = .outstanding code tries phase
  transfer : ∀ t : State, t.link = u.link → (∀ w, w ≠ v → t.rail w = s.rail w) →
    (∀ c tries, (t.rail v).command ≠ .outstanding c tries .awaitingReply) → t.TransferSound

/-- A raise at its settle deadline has no transfer (R95). -/
theorem State.Decides.settles {tries : Try} {deadline : Nat} (h : s.Whole strict)
    (hout : (s.rail v).command = .outstanding code tries (.settling deadline)) (pg : Bool) :
    s.Decides strict v code (s.samplePg v pg) := by
  refine ⟨h, rfl, rfl, rfl, rfl, rfl, ⟨_, _, hout⟩, fun t hlink hother hwaits => ?_⟩
  refine h.transfer.congr (by rw [hlink]; rfl) (by rw [hlink]; rfl) (by rw [hlink]; rfl) (by rw [hlink]; rfl)
    fun w c tries => ?_
  by_cases hw : w = v
  · rw [hw, hout]
    exact iff_of_false (hwaits c tries) nofun
  · rw [hother w hw]

/-- The transfer of a try that its rail wants has ended (R92 to R94). -/
theorem State.Decides.ends {x : Transfer} (h : s.Whole strict) (hx : s.link.transfer = some x)
    (hwanted : x.disregarded = false) (pins : Pins) :
    s.Decides strict x.rail x.code { s.endTransfer with pins := pins } := by
  refine ⟨h, rfl, rfl, rfl, rfl, rfl, ⟨_, _, (h.transfer.wanted x hx).2 hwanted⟩, fun t hlink hother hwaits => ?_⟩
  refine h.transfer.ended (by rw [hlink]; rfl) (by rw [hlink]; rfl) fun w c tries hw => ?_
  by_cases hwx : w = x.rail
  · rw [hwx] at hw; exact absurd hw (hwaits c tries)
  · refine ⟨hother w hwx ▸ hw, fun y hy hyw => absurd ?_ hwx⟩
    obtain rfl := Option.some.inj (hx.symm.trans hy)
    exact hyw.symm

section Decides
variable (h : s.Decides strict v code u)
include h

theorem State.Decides.rail (w : RailId) : u.rail w = s.rail w := by rw [State.rail, h.rails]; rfl

theorem State.Decides.command_ne_none : (s.rail v).command ≠ .none := by
  obtain ⟨tries, phase, hout⟩ := h.out
  rw [hout]
  nofun

/-- Neither HELD nor SHUTDOWN has a command. -/
theorem State.Decides.state : (s.rail v).state ≠ .held ∧ (s.rail v).state ≠ .shutdown :=
  ⟨fun hs => h.command_ne_none ((h.whole.rails v).held hs).2, fun hs => h.command_ne_none ((h.whole.rails v).shut hs)⟩

theorem State.Decides.free (hfallback : (s.rail v).state ≠ .fallback) : (s.rail v).faulted = false :=
  Rail.not_faulted.2 ⟨hfallback, h.state⟩

/-- What the rail's next state must fit. -/
theorem State.Decides.setRail {r : Rail} (hr : r.Fits) (hmin : r.min = (s.rail v).min) (hmax : r.max = (s.rail v).max)
    (hfallback : r.fallback = (s.rail v).fallback) (hwaits : ∀ c tries, r.command ≠ .outstanding c tries .awaitingReply)
    (hfits : ∀ e, s.railOf e = v → (u.setRail v r).Fits e (s.domain e)) :
    (u.setRail v r).Consistent strict (fun _ => True) (fun _ => True) fun w => w ≠ v ∧ True := by
  have hown : (u.setRail v r).rail v = r := State.setRail_rail_self ..
  have hother (w : RailId) (hw : w ≠ v) : (u.setRail v r).rail w = s.rail w := by
    rw [State.setRail_rail, if_neg hw, h.rail]
  refine h.whole.toConsistent.withRail h.setups h.domains h.records h.park hother (by rw [hown]; exact hr)
    (State.SetupFits.keepsLimits h.whole.setups h.setups ?_ ?_ ?_) (fun e he _ => hfits e he)
    (h.transfer _ rfl hother (by rw [hown]; exact hwaits))
  · rw [hown, hmin]
  · rw [hown, hmax]
  · rw [hown, hfallback]

/-! ### Success (R96, R97, R130) -/

theorem State.Decides.succeeded_fits : ((s.rail v).succeeded code).Fits := by
  have hfits := h.whole.rails v
  obtain ⟨tries, phase, hout⟩ := h.out
  have hcode : (s.rail v).command.code? = some code := by rw [hout]; rfl
  obtain ⟨hheld, hshut⟩ := h.state
  have hstate : ((s.rail v).succeeded code).state = if (s.rail v).state = .fallback then .held else (s.rail v).state := rfl
  have hfaulted : ((s.rail v).succeeded code).faulted = (s.rail v).faulted := by
    by_cases hs : (s.rail v).state = .fallback
    · simp [Rail.faulted, hstate, hs]
    · simp only [Rail.faulted, hstate, if_neg hs]
  refine ⟨hfits.window, hfits.fallback, hfits.retention, hfits.stepTime, ?_, fun hs => ?_, fun _ => rfl, nofun, nofun, nofun⟩
  · rw [hfaulted]; exact hfits.cause
  · rw [hstate] at hs
    split at hs
    · next hf => exact ⟨hfits.falling hf code hcode, rfl⟩
    · exact absurd hs hheld

theorem State.Decides.succeeded : (u.setRail v ((u.rail v).succeeded code)).Consistent strict (fun _ => True)
    (fun _ => True) fun w => w ≠ v ∧ True := by
  rw [h.rail]
  refine h.setRail h.succeeded_fits rfl rfl rfl nofun fun e he => ?_
  have hfits := h.whole.fits e trivial
  have hown : (u.setRail v ((s.rail v).succeeded code)).rail (s.railOf e) = (s.rail v).succeeded code := by
    rw [he]; exact State.setRail_rail_self ..
  by_cases hs : (s.rail v).state = .fallback
  case pos =>
    have hp := State.point_congr (t := u.setRail v ((s.rail v).succeeded code)) (s := s) h.setups e
    have hc := State.code_congr (t := u.setRail v ((s.rail v).succeeded code)) (s := s) h.setups e
    have hv := State.railOf_congr (t := u.setRail v ((s.rail v).succeeded code)) (s := s) h.setups e
    have hheld : ((s.rail v).succeeded code).state = .held := if_pos hs
    have hfaulted : ((s.rail v).succeeded code).faulted ≠ false := by simp [Rail.faulted, hheld]
    have hoff : (s.domain e).state ≠ .off := by
      rw [Ne, ← hfits.shut, he, hs]
      nofun
    refine ⟨hp _ ▸ hfits.current, hp _ ▸ hfits.target, fun l hl => hp _ ▸ hfits.step l hl, hfits.moves, ?_, ?_, fun _ => ?_,
      ?_, ?_, ?_, ?_⟩
    · rw [hv, hown]
      exact iff_of_true (.inr hheld) (hfits.held.1 (.inl (he ▸ hs)))
    · rw [hv, hown, hheld]
      exact iff_of_false nofun hoff
    · exact hfits.inPlace (.inr ⟨he ▸ hs, he ▸ h.command_ne_none⟩)
    · rw [hv, hc, hown]
      intro hf hg
      have hcode := hfits.frozen hf hg
      rw [he] at hcode
      exact hcode
    all_goals
      rw [hv, hown]
      exact fun hf => absurd hf hfaulted
  case neg =>
    have hstate : ((s.rail v).succeeded code).state = (s.rail v).state := if_neg hs
    obtain ⟨tries, phase, hout⟩ := h.out
    have hbefore : s.assured (s.railOf e) ≤ code := by
      rw [he, State.assured, Rail.assured_of_outstanding hout]
      exact lowerCode_le_right _ _
    have hafter : (u.setRail v ((s.rail v).succeeded code)).assured (s.railOf e) = code := by
      rw [State.assured, hown]; rfl
    refine hfits.covered_anew h.setups (by rw [hown, he, hstate]) (by rw [hown, he]; rfl)
      (fun hfb => absurd (he ▸ hfb) hs) fun hf => ?_
    rw [hafter]
    refine ⟨fun hr => ?_, fun hc l hl => BitVec.le_trans (hfits.clock hf hc l hl) hbefore⟩
    obtain ⟨hcurrent, hstep⟩ := hfits.running hf hr
    exact ⟨BitVec.le_trans hcurrent hbefore, fun l hl => BitVec.le_trans (hstep l hl) hbefore⟩

theorem State.Decides.commandSucceeds : (u.commandSucceeds v code).Consistent strict (fun _ => True) (fun _ => True)
    (fun _ => True) :=
  (h.succeeded.reevaluate v).mono (fun _ => id) (fun _ => id) fun w _ => (em (w = v)).imp_right fun hw => ⟨hw, trivial⟩

/-- Where the link has chosen before, it has after a success. -/
theorem State.Decides.commandSucceeds_elected (helected : u.ElectedSound) : (u.commandSucceeds v code).ElectedSound := by
  have hwaiting (w : RailId) : (u.setRail v ((u.rail v).succeeded code)).waiting w = u.waiting w := by
    by_cases hw : w = v
    · obtain ⟨tries, phase, hout⟩ := h.out
      have hafter : (u.setRail v ((u.rail v).succeeded code)).waiting v = false := by
        rw [State.waiting, State.setRail_rail_self]; rfl
      have hbefore : u.waiting v = false := by rw [State.waiting, h.rail, hout]
      rw [hw, hafter, hbefore]
    · exact State.waiting_congr (by rw [State.setRail_rail, if_neg hw])
  have hmid : (u.setRail v ((u.rail v).succeeded code)).ElectedSound := helected.congr rfl rfl hwaiting
  exact State.reevaluate_electedSound hmid v

/-! ### Failure (R93, R96, R97, R129, R131) -/

theorem State.Decides.dropped : (u.setRail v { u.rail v with command := .none }).Consistent strict (fun _ => True)
    (fun _ => True) fun w => w ≠ v ∧ True := by
  rw [h.rail]
  have hrail := h.whole.rails v
  refine h.setRail ⟨hrail.window, hrail.fallback, hrail.retention, hrail.stepTime, hrail.cause,
    fun hs => ⟨(hrail.held hs).1, rfl⟩, fun _ => rfl, nofun, nofun, nofun⟩ rfl rfl rfl nofun fun e he => ?_
  have hown : (u.setRail v { s.rail v with command := .none }).rail (s.railOf e) = { s.rail v with command := .none } := by
    rw [he]; exact State.setRail_rail_self ..
  refine (h.whole.fits e trivial).congr h.setups (by rw [hown, he]) (by rw [hown, he]) (by rw [hown, he])
    (fun _ hne => absurd (by rw [hown]) hne) (by rw [hown, he]) fun _ => ?_
  rw [State.assured, State.assured, hown, he]
  exact Rail.assured_le _

theorem State.Decides.commandFails {cause : RailCause} (hcause : cause ≠ .none) :
    (u.commandFails v cause).Whole strict := by
  have hown : (u.setRail v { u.rail v with command := .none }).rail v = { u.rail v with command := .none } :=
    State.setRail_rail_self ..
  have hnone : ((u.setRail v { u.rail v with command := .none }).rail v).command = .none := by rw [hown]
  by_cases hs : (s.rail v).state = .fallback
  · have he : u.commandFails v cause = (u.setRail v { u.rail v with command := .none }).enterShutdown v cause := by
      rw [State.commandFails, if_pos (by rw [h.rail]; exact hs), State.enterShutdown, State.enterShutdown, hown,
        State.setRail_setRail]
    rw [he]
    exact h.dropped.enterShutdown hnone hcause (.inl (by rw [hown, h.rail]; exact hs))
  · have he : u.commandFails v cause = (u.setRail v { u.rail v with command := .none }).enterFallback v cause := by
      rw [State.commandFails, if_neg (by rw [h.rail]; exact hs), State.enterFallback, State.enterFallback, hown,
        State.setRail_setRail]
    rw [he]
    exact h.dropped.enterFallback hnone hcause (by rw [hown, h.rail]; exact h.free hs)

theorem State.Decides.outcomeByPg (helected : u.ElectedSound) : (u.outcomeByPg v code).Whole strict := by
  rw [State.outcomeByPg]
  split
  · exact ⟨h.commandSucceeds, h.commandSucceeds_elected helected⟩
  · exact h.commandFails (cause := .pgLow) nofun

theorem State.Decides.outcomeByPg_consistent : (u.outcomeByPg v code).Consistent strict (fun _ => True) (fun _ => True)
    (fun _ => True) := by
  rw [State.outcomeByPg]
  split
  · exact h.commandSucceeds
  · exact (h.commandFails (cause := .pgLow) nofun).toConsistent

end Decides

/-! ### Replies and timeouts (R92 to R97) -/

/-- The outstanding command of a rail goes on in another phase. -/
theorem State.Coherent.goesOn (h : s.Whole strict) {tries tries' : Try} {phase phase' : CommandPhase}
    (hout : (s.rail v).command = .outstanding code tries phase) (hsetups : t.setups = s.setups)
    (hdomains : t.domains = s.domains) (hrecords : t.records = s.records) (hpark : t.park = s.park)
    (hrails : t.rails = (s.setRail v { s.rail v with command := .outstanding code tries' phase' }).rails)
    (htransfer : t.TransferSound) : t.Consistent strict (fun _ => True) (fun _ => True) (fun _ => True) := by
  have hdomain (e : DomainId) : t.domain e = s.domain e := by rw [State.domain, hdomains]; rfl
  have hrecord (k : Handle) : t.record k = s.record k := by rw [State.record, hrecords]; rfl
  have hrail (w : RailId) : t.rail w =
      (s.setRail v { s.rail v with command := .outstanding code tries' phase' }).rail w := by
    rw [State.rail, hrails]; rfl
  refine h.toConsistent.congr hsetups (fun e => by rw [hdomain]; exact .refl _) (fun w => ?_)
    (h.consent.congr (by rw [hpark]) (by rw [hpark]) fun e => by rw [hdomain]) htransfer
    (fun e _ _ hf => (State.hasFloor_congr (t := s) e fun k => by rw [hrecord]).trans hf) fun hq e he =>
    (h.statuses hq e he).congr (by rw [hdomain]) fun k q hk hd => ⟨q, hrecord k ▸ hk, hd, rfl⟩
  rw [hrail, State.setRail_rail]
  split
  · next hw => rw [hw]; exact ⟨_, rfl, .inr ⟨code, tries, phase, tries', phase', hout, rfl⟩⟩
  · exact .refl _

section Try
variable {x : Transfer} (h : s.Whole strict) (hx : s.link.transfer = some x) (pins : Pins)
include h hx

/-- The outcome of a transfer that no rail wants only frees the link (R94). -/
theorem State.Coherent.disregarded (hdisregarded : x.disregarded = true) :
    State.Consistent strict (fun _ => True) (fun _ => True) (fun _ => True) { s.endTransfer with pins := pins } := by
  refine h.toConsistent.aside (h.transfer.ended rfl rfl fun w code tries hw => ⟨hw, fun y hy _ => ?_⟩)
  obtain rfl := Option.some.inj (hx.symm.trans hy)
  exact hdisregarded

variable (hwanted : x.disregarded = false)
include hwanted

theorem State.Coherent.accepted : (State.accepted { s.endTransfer with pins := pins } x.rail x.code x.tries).Consistent
    strict (fun _ => True) (fun _ => True) (fun _ => True) := by
  have hdecides := State.Decides.ends h hx hwanted pins
  obtain ⟨tries, phase, hout⟩ := hdecides.out
  unfold State.accepted
  dsimp only
  split
  · refine h.goesOn hout rfl rfl rfl rfl rfl (hdecides.transfer _ rfl (fun w hw => ?_) fun c tries hc => ?_)
    · rw [State.setRail_rail, if_neg hw]; rfl
    · rw [State.setRail_rail_self] at hc
      cases hc
  · exact hdecides.outcomeByPg_consistent

theorem State.Coherent.tryFails {cause : RailCause} (hcause : cause ≠ .none) :
    (State.tryFails { s.endTransfer with pins := pins } x cause).Consistent strict (fun _ => True) (fun _ => True)
      (fun _ => True) := by
  have hdecides := State.Decides.ends h hx hwanted pins
  obtain ⟨tries, phase, hout⟩ := hdecides.out
  unfold State.tryFails
  split
  · refine h.goesOn hout rfl rfl rfl rfl rfl (h.transfer.begun (v := x.rail) (fun y hy => ?_) ?_ rfl nofun rfl rfl rfl ?_
      fun w hw => ?_)
    · rw [Option.some.inj (hx.symm.trans hy)]
    · by_contra hne
      exact nomatch hx.symm.trans (h.transfer.hold hne)
    · exact congrArg Rail.command (State.setRail_rail_self ..)
    · exact congrArg Rail.command ((State.setRail_rail ..).trans (if_neg hw))
  · exact (hdecides.commandFails hcause).toConsistent

end Try

theorem execRegulatorReply_keeps (h : s.Whole strict) (reply : Byte) (pg : Bool) :
    ∃ t, execRegulatorReply reply pg s = .next t ∧ t.Whole strict := by
  unfold execRegulatorReply
  split
  case h_2 => exact ⟨s, rfl, h⟩
  case h_1 x ack bit v hx hreply =>
    split
    case isFalse => exact ⟨s, rfl, h⟩
    case isTrue =>
      refine ⟨_, rfl, State.Coherent.noteAssured (State.Consistent.chooseRail ?_) x.rail s⟩
      split
      · next hd => exact h.disregarded hx _ hd
      · next hd =>
        rw [Bool.not_eq_true] at hd
        split
        · exact h.accepted hx _ hd
        · exact h.tryFails hx _ hd nofun

theorem execReplyTimeout_keeps (h : s.Whole strict) : ∃ t, execReplyTimeout s = .next t ∧ t.Whole strict := by
  unfold execReplyTimeout
  split
  case h_2 => exact ⟨s, rfl, h⟩
  case h_1 x n hx htimer =>
    refine ⟨_, rfl, State.Coherent.noteAssured (State.Consistent.chooseRail ?_) x.rail s⟩
    split
    · next hd => exact h.disregarded hx s.pins hd
    · next hd => exact h.tryFails hx s.pins (by simpa using hd) nofun

/-! ### PG and the reset hold (R89, R96, R98, R125, R130) -/

theorem execSettleDeadline_keeps (h : s.Whole strict) (v : RailId) (pg : Bool) :
    ∃ t, execSettleDeadline v pg s = .next t ∧ t.Whole strict := by
  unfold execSettleDeadline
  split
  · next code tries deadline hout =>
    have helected : (s.samplePg v pg).ElectedSound := h.elected.congr rfl rfl fun _ => rfl
    exact ⟨_, rfl, ((State.Decides.settles h hout pg).outcomeByPg helected).noteAssured v s⟩
  · exact ⟨s, rfl, h⟩

theorem State.Coherent.samplePg (h : s.Whole strict) (v : RailId) (pg : Bool) : (s.samplePg v pg).Whole strict := h.aside

/-- A rail without an outstanding command loses its power good (R98). -/
theorem State.Coherent.powerLost (h : s.Whole strict) (hfree : (s.rail v).faulted = false)
    (hout : ∀ code tries phase, (s.rail v).command ≠ .outstanding code tries phase) {cause : RailCause}
    (hcause : cause ≠ .none) : (s.enterFallback v cause).Whole strict := by
  have hown : (s.setRail v { s.rail v with command := .none }).rail v = { s.rail v with command := .none } :=
    State.setRail_rail_self ..
  have hother (w : RailId) (hw : w ≠ v) : (s.setRail v { s.rail v with command := .none }).rail w = s.rail w := by
    rw [State.setRail_rail, if_neg hw]
  have hrail := h.rails v
  have he : s.enterFallback v cause = (s.setRail v { s.rail v with command := .none }).enterFallback v cause := by
    rw [State.enterFallback, State.enterFallback, hown, State.setRail_setRail]
  have hdropped : (s.setRail v { s.rail v with command := .none }).Consistent strict (fun _ => True) (fun _ => True)
      fun w => w ≠ v ∧ True := by
    refine h.toConsistent.withRail rfl rfl rfl rfl hother ?_ (State.SetupFits.keepsLimits h.setups rfl ?_ ?_ ?_)
      (fun e he _ => ?_) (h.transfer.congr rfl .rfl .rfl rfl fun w code tries => ?_)
    · rw [hown]
      exact ⟨hrail.window, hrail.fallback, hrail.retention, hrail.stepTime, hrail.cause,
        fun hs => ⟨(hrail.held hs).1, rfl⟩, fun _ => rfl, nofun, nofun, nofun⟩
    · rw [hown]
    · rw [hown]
    · rw [hown]
    · refine (h.fits e trivial).congr rfl (by rw [he, hown]) (by rw [he, hown]) (by rw [he, hown])
        (fun _ hne => absurd (by rw [he, hown]) hne) (by rw [he, hown]) fun _ => ?_
      rw [State.assured, State.assured, he, hown]
      exact Rail.assured_le _
    · by_cases hw : w = v
      · rw [hw, hown]; exact iff_of_false nofun (hout code tries _)
      · rw [hother w hw]
  rw [he]
  exact hdropped.enterFallback (by rw [hown]) hcause (by rw [hown]; exact hfree)

theorem execPgFall_keeps (h : s.Whole strict) (v : RailId) : ∃ t, execPgFall v s = .next t ∧ t.Whole strict := by
  have hsample := h.samplePg v false
  by_cases hignored : (s.rail v).state = .fallback ∨ (s.rail v).state = .shutdown
  · exact ⟨_, execPgFall_ignored hignored, hsample⟩
  obtain ⟨hfallback, hshut⟩ := not_or.1 hignored
  by_cases hheld : (s.rail v).state = .held
  · refine ⟨_, execPgFall_held hheld, State.Coherent.noteAssured ?_ v s⟩
    exact (hsample.toConsistent.mono (fun _ => id) (fun _ => id) fun _ _ => trivial).enterShutdown
      ((h.rails v).held hheld).2 nofun (.inr hheld)
  · have hfree : (s.rail v).faulted = false := Rail.not_faulted.2 ⟨hfallback, hheld, hshut⟩
    refine ⟨_, execPgFall_free hfree, ?_⟩
    split
    · exact hsample
    · next hout =>
      refine State.Coherent.noteAssured (hsample.powerLost hfree (cause := .pgFall) (fun code tries phase hc => hout ?_)
        nofun) v s
      exact Rail.hasOutstanding_iff.2 ⟨code, tries, phase, hc⟩

theorem execResetHoldEnd_keeps (h : s.Whole strict) : ∃ t, execResetHoldEnd s = .next t ∧ t.Whole strict := by
  unfold execResetHoldEnd
  split
  · exact ⟨s, rfl, h⟩
  · next hhold =>
    have hfreed : State.TransferSound { s with link := { s.link with resetHold := none } } :=
      ⟨h.transfer.timer, fun hne => absurd rfl hne, h.transfer.wanted, h.transfer.awaiting⟩
    exact ⟨_, rfl, (h.toConsistent.aside hfreed).chooseRail⟩

end Sys2Proof.Machine
end

section
/-! PROOFS. The events of one domain controller keep the relations of a sound state. -/

-- The proofs are elaborated one after another: side by side they would exceed the memory that the check allows.
set_option Elab.async false

namespace Sys2Proof.Machine

variable {strict : Prop} {s t u : State} {d : DomainId}

/-! ### How an event of domain d ends -/

theorem State.Coherent.reresolves (h : s.Whole strict) (d : DomainId) : (s.reresolve d).Whole strict :=
  h.reresolve (fun _ _ => trivial) (fun _ _ => trivial) (fun _ _ => trivial) (h.fits d trivial) fun hq =>
    h.statuses hq d trivial

/-- The domain fits its state again; the rest of the part is as it was. -/
theorem State.Moved.opened (h : s.Moved strict d t) (hs : s.Whole strict) (hconsent : t.ConsentSound) :
    t.Open strict d :=
  h.isOpen hs (fun _ _ => trivial) (fun _ _ => trivial) (fun _ _ => trivial) hconsent

theorem State.Moved.ends (h : s.Moved strict d t) (hs : s.Whole strict) (hconsent : t.ConsentSound) :
    (t.finish d).Whole strict := (h.opened hs hconsent).finish_whole

/-- A controller that is not in CONSENT and does not go there leaves the channel alone. -/
theorem State.Moved.ends_unmoved (h : s.Moved strict d t) (hs : s.Whole strict) (hpark : t.park = s.park)
    (hstate : (t.domain d).state = .consent ↔ (s.domain d).state = .consent) : (t.finish d).Whole strict :=
  h.ends hs (hs.consent.unmoved h.move.frame hpark hstate)

/-- What changes neither the state, the need nor the inputs of a domain needs no end of its event. -/
theorem State.Coherent.restoreDomain (h : s.Coherent strict (fun _ => True) (· ≠ d) (fun _ => True)) {c : Domain}
    (hfits : s.Fits d c) (hstate : c.state = (s.domain d).state) (hneed : c.need = (s.domain d).need)
    (hforce : c.force = (s.domain d).force) (hthrottled : c.throttled = (s.domain d).throttled)
    (hclosed : (s.setDomain d c).Closed d) : (s.setDomain d c).Whole strict := by
  have hown : (s.setDomain d c).domain d = c := State.setDomain_domain_self ..
  have hmove : s.DomainMove d (s.setDomain d c) := .setDomain s d hforce hthrottled
  have hrest := h.move (fit' := fun _ => True) (closed' := (· ≠ d)) (followed' := (· ≠ s.railOf d)) hmove
    (h.consent.unmoved hmove.frame rfl (by rw [hown, hstate])) (fun _ _ _ => trivial) (fun e he => ⟨he, he⟩)
    (fun v hv => ⟨hv, trivial⟩) fun _ => ⟨by rw [hown]; exact hfits, ?parked, fun hq => ?statuses⟩
  case parked =>
    exact (h.parked d trivial).congr (by rw [hown, hstate, hforce]; exact fun hp => ⟨hp, rfl⟩) id
  case statuses =>
    exact (h.statuses hq d trivial).congr (by rw [hown, hstate]) fun k q hk hd => ⟨q, hk, hd, rfl⟩
  refine { hrest with closed := fun e _ => ?_, followed := fun v _ => ?_ }
  · by_cases he : e = d
    · rw [he]; exact hclosed
    · exact hrest.closed e he
  · refine (h.followed v trivial).congr rfl rfl fun e _ => ?_
    by_cases he : e = d
    · rw [he, hown, hstate, hneed]; exact ⟨rfl, .rfl⟩
    · rw [hmove.frame.domains e he]; exact ⟨rfl, .rfl⟩

/-! ### Reports and strobes (R9, R69, R70) -/

theorem execRecordReport_keeps (h : s.Whole strict) (d : DomainId) :
    ∃ t, execRecordReport d s = .next t ∧ t.Whole strict := by
  unfold execRecordReport
  split
  · exact ⟨s, rfl, h⟩
  · exact ⟨_, rfl, State.Coherent.reresolves h.aside d⟩

/-- A domain whose strobe has been driven. -/
def Domain.driven (c : Domain) (timer : Option Nat) : Domain := { c with strobe := none, lockTimer := timer }

theorem execStrobeDriven_keeps (h : s.Whole strict) (d : DomainId) :
    ∃ t, execStrobeDriven d s = .next t ∧ t.Whole strict := by
  unfold execStrobeDriven
  split
  · exact ⟨s, rfl, h⟩
  · next b hb =>
    have hfits := h.fits d trivial
    obtain ⟨hsettled, hsteady, hgate, hmoving, hstep, htimer, hdue, hrest⟩ := hfits.moves
    have hlock : (s.domain d).lockTimer = none := by
      by_contra hne
      exact nomatch hb.symm.trans (htimer hne).2
    have hmoves : ((s.domain d).driven (s.timerAtStrobe d b)).MovesSound := by
      refine ⟨hsettled, hsteady, hgate, hmoving, hstep, fun hne => ⟨?_, rfl⟩, fun hs => .inl ?_, hrest⟩
      · cases b with
        | stop => exact absurd hlock hne
        | step clock =>
          intro hnone
          exact hne ((if_neg (by rw [show (s.domain d).step = none from hnone]; nofun)).trans hlock)
      · obtain hne | ⟨clock, hstrobe⟩ := hdue hs
        · exact absurd hlock hne
        · obtain rfl := Option.some.inj (hb.symm.trans hstrobe)
          have htaken : s.timerAtStrobe d (.step clock) = some ((s.config d).lockCount.toNat * Config.clockUnit) :=
            if_pos (Option.isSome_iff_ne_none.2 hs)
          rw [htaken]
          nofun
    have hdriven := State.Coherent.restoreDomain (d := d)
      (h.mono (fun _ _ => trivial) (fun _ _ => trivial) fun _ _ => trivial) (c := (s.domain d).driven (s.timerAtStrobe d b))
      ⟨hfits.current, hfits.target, hfits.step, hmoves, hfits.held, hfits.shut, hfits.inPlace, hfits.frozen, hfits.running,
        hfits.clock, hfits.raising⟩ rfl rfl rfl rfl ?_
    · exact ⟨_, rfl, hdriven.aside⟩
    · have hclosed := h.closed d trivial
      have hneed := s.needOf_setDomain d ((s.domain d).driven (s.timerAtStrobe d b)) rfl rfl rfl rfl rfl
      rw [State.Closed, State.setDomain_domain_self, hneed]
      exact hclosed

/-! ### LOCK and its timeouts (R71, R73, R120, R127) -/

/-- In these states no gate settle timer runs and no fault is held. -/
theorem Domain.MovesSound.stepping_idle {c : Domain} (h : c.MovesSound)
    (hs : c.state = .stepping ∨ c.state = .waking .clock) :
    c.gateTimer = none ∧ c.cause = .none ∧ c.gated = false := by
  obtain ⟨-, -, hgate, -, -, -, -, hgateTimer, hcause, -, -⟩ := h
  refine ⟨by_contra fun hne => ?_, by_contra fun hne => ?_, hgate false ?_⟩
  · obtain e | e := hs <;> simp [e] at hgateTimer <;> exact hne hgateTimer
  · obtain e | e := hs <;> simp [e] at hcause <;> exact hne hcause
  · obtain e | e := hs <;> rw [e] <;> rfl

theorem State.Coherent.stepped (h : s.Whole strict) {l : Level} (hstep : (s.domain d).step = some l)
    (hs : (s.domain d).state = .stepping ∨ (s.domain d).state = .waking .clock) :
    (((s.stepped d l).plan d).finish d).Whole strict := by
  have hfits := h.fits d trivial
  have hdomain := s.stepped_domain d l
  obtain ⟨hgateTimer, hcause, hgated⟩ := hfits.moves.stepping_idle hs
  have hnot : (s.domain d).state ≠ .frozen ∧ (s.domain d).state ≠ .off ∧ (s.domain d).state ≠ .consent := by
    obtain e | e := hs <;> simp [e]
  have hfree := hfits.free (fun hf => absurd hf hnot.1) hnot.2.1
  have hcovered : s.code d l ≤ s.assured (s.railOf d) := by
    obtain e | e := hs
    · exact (hfits.running hfree (by simp [Domain.running, e])).2 l hstep
    · exact hfits.clock hfree e l hstep
  have hmove := State.DomainMove.stepped s d l
  have hruns : (s.stepped d l).Runs d ((s.stepped d l).domain d) := by
    rw [hdomain]
    exact State.Runs.congr ⟨⟨⟨rfl, rfl, hgateTimer, hcause⟩, hfits.step l hstep, hfits.target, hfree⟩, hgated, hcovered⟩ hmove
  refine (hmove.moved (hruns.plan fun hq => ?_)).ends h (State.ConsentSound.plan ?_ ?_)
  · exact ((h.statuses hq d trivial).noneHeld hnot.1 hnot.2.1).congr fun _ => rfl
  · exact h.consent.unmoved hmove.frame rfl (by rw [hdomain]; exact iff_of_false nofun hnot.2.2)
  · rw [hdomain]; nofun

/-- A frozen domain stays so, whatever becomes of its freezing step (R127). -/
theorem State.Coherent.freezingStepEnds (h : s.Whole strict) {c : Domain} (hs : (s.domain d).state = .frozen)
    (hmove : s.DomainMove d t) (hdomain : t.domain d = c) (hrecord : ∀ k, t.record k = s.record k)
    (hpark : t.park = s.park) (hstate : c.state = .frozen) (hcause : c.cause = (s.domain d).cause)
    (hmoves : c.MovesSound) (hcurrent : (s.point d c.current).valid = true) (htarget : (s.point d c.target).valid = true)
    (hstep : c.step = none) (hcode : c.gated = false → s.code d c.current ≤ (s.rail (s.railOf d)).fallback) :
    t.Open strict d := by
  have hfits := h.fits d trivial
  have hnotRunning (hfree : (s.rail (s.railOf d)).faulted = false) : c.gated = true := by
    obtain ⟨hfallback, hheld, -⟩ := Rail.not_faulted.1 hfree
    obtain ⟨-, -, -, -, -, -, -, -, hcs, -, hclock⟩ := hmoves
    cases hc : c.cause with
    | none => exact absurd hc (hcs.2 (.inl hstate))
    | rail => exact absurd (hfits.held.2 ⟨hs, hcause.symm.trans hc⟩) (not_or.2 ⟨hfallback, hheld⟩)
    | clock => exact hclock hc
  refine State.Moved.opened ⟨hmove, ?fits, fun hp => ?parked, fun hq => ?statuses⟩ h
    (h.consent.unmoved hmove.frame hpark (by rw [hdomain, hstate, hs]))
  case parked => rw [hdomain, hstate] at hp; cases hp
  case statuses => exact (h.statuses hq d trivial).of_alike hrecord (by rw [hdomain, hstate, hs]) (by rw [hs]; nofun)
  case fits =>
    rw [hdomain]
    refine ⟨hcurrent, htarget, fun l hl => (nomatch hstep.symm.trans hl), hmoves, ?_, ?_, fun _ => ?_, fun _ hg => ?_,
      fun hf hr => ?_, fun _ hc => ?_, fun _ hr => ?_⟩
    · rw [hstate, hcause, hfits.held, hs]
    · rw [hstate, hfits.shut, hs]
    · simp [Domain.inPlace, hstate, hstep]
    · rw [hstep]; exact hcode hg
    · simp [Domain.running, hstate, hnotRunning hf] at hr
    · rw [hstate] at hc; cases hc
    · rw [hstate] at hr; cases hr

theorem execLockRise_keeps (h : s.Whole strict) (d : DomainId) : ∃ t, execLockRise d s = .next t ∧ t.Whole strict := by
  by_cases htaken : (s.domain d).step = none ∨ (s.domain d).strobe ≠ none
  · exact ⟨s, execLockRise_ignored htaken, h⟩
  obtain ⟨hstep, hstrobe⟩ := not_or.1 htaken
  obtain ⟨l, hl⟩ := Option.ne_none_iff_exists'.1 hstep
  refine ⟨_, execLockRise_taken hl (not_not.1 hstrobe), ?_⟩
  have hfits := h.fits d trivial
  obtain hs | hs | ⟨hs, hgated⟩ := hfits.moves.step_states hstep
  · rw [State.lockTaken_steps (.inl hs)]
    exact h.stepped hl (.inl hs)
  · rw [State.lockTaken_steps (.inr hs)]
    exact h.stepped hl (.inr hs)
  · rw [State.lockTaken_freezes hs]
    refine (State.Coherent.finish_whole (h.freezingStepEnds hs (.completeStep s d l) (State.setDomain_domain_self ..)
      (fun _ => rfl) rfl hs rfl ?_ (hfits.step l hl) hfits.target rfl fun _ => ?_)).fallbackCheck _
    · obtain ⟨hsettled, hsteady, hgate, hmoving, -, -, -, hgateTimer, hcause, hoff, hclock⟩ := hfits.moves
      refine ⟨hsettled, fun he => (nomatch hs.symm.trans he), hgate, fun he => ?_, fun hne => absurd rfl hne,
        fun hne => absurd rfl hne, fun hne => absurd rfl hne, hgateTimer, hcause, hoff, hclock⟩
      obtain e | e := he
      · exact nomatch hs.symm.trans e
      · exact nomatch hs.symm.trans e
    · have hcode := hfits.frozen hs hgated
      rw [hl] at hcode
      exact hcode

/-- A timed-out domain agrees with its state. -/
theorem Domain.timedOut_movesSound {c : Domain} (hgate : c.gateTimer = none) {cause : DomainCause}
    (hcause : cause ≠ .none) : (c.timedOut cause).MovesSound := by
  simp [Domain.MovesSound, Domain.timedOut, DomainState.gate, hgate, hcause]

theorem State.Coherent.raise {fit closed : DomainId → Prop} {followed : RailId → Prop}
    (h : s.Coherent strict fit closed followed) (xs : List (PortId × Notice)) :
    (s.raise xs).Coherent strict fit closed followed := by
  rw [State.raise_eq]
  exact h.aside

theorem execLockTimeout_keeps (h : s.Whole strict) (d : DomainId) :
    ∃ t, execLockTimeout d s = .next t ∧ t.Whole strict := by
  unfold execLockTimeout
  dsimp only
  split
  case isFalse => exact ⟨s, rfl, h⟩
  case isTrue htaken =>
    obtain ⟨-, hs⟩ := htaken
    have hfits := h.fits d trivial
    obtain ⟨hgateTimer, -, -⟩ := hfits.moves.stepping_idle hs
    have hnot : (s.domain d).state ≠ .frozen ∧ (s.domain d).state ≠ .off ∧ (s.domain d).state ≠ .consent := by
      obtain e | e := hs <;> simp [e]
    have hfree := hfits.free (fun hf => absurd hf hnot.1) hnot.2.1
    rw [State.freezeAfterTimeout_eq]
    have hmove : s.DomainMove d ((s.setDomain d ((s.domain d).timedOut .clock)).holdRecords d) :=
      (State.DomainMove.setDomain s d (c := (s.domain d).timedOut .clock) rfl rfl).trans (.holdRecords _ d)
    have hdomain : ((s.setDomain d ((s.domain d).timedOut .clock)).holdRecords d).domain d =
        (s.domain d).timedOut .clock := State.setDomain_domain_self s d _
    refine ⟨_, rfl, State.Coherent.finish_whole (State.Coherent.raise (State.Moved.opened ⟨hmove, ?fits, fun hp => ?parked,
      fun hq k r hr hd => ?statuses⟩ h (h.consent.unmoved hmove.frame rfl ?consent)) _)⟩
    case fits =>
      rw [hdomain]
      refine .of_free hfree hfits.current hfits.target nofun (Domain.timedOut_movesSound hgateTimer nofun) (fun _ => rfl) nofun
        (fun hr => ?_) nofun nofun
      simp [Domain.running, Domain.timedOut] at hr
    case parked => rw [hdomain] at hp; cases hp
    case statuses =>
      have hheld := State.forall_rewritten (P := fun r => r.status = .held) (State.holdRecords_record _ d)
        (fun _ _ _ _ => rfl) k r hr hd
      rw [hdomain, hheld]
      exact ⟨iff_of_true rfl (.inl rfl), fun hx => hx.elim nofun nofun⟩
    case consent =>
      rw [hdomain]
      exact iff_of_false nofun hnot.2.2

theorem execFreezingLockTimeout_keeps (h : s.Whole strict) (d : DomainId) :
    ∃ t, execFreezingLockTimeout d s = .next t ∧ t.Whole strict := by
  unfold execFreezingLockTimeout
  dsimp only
  split
  case isFalse => exact ⟨s, rfl, h⟩
  case isTrue htaken =>
    obtain ⟨-, hs, -⟩ := htaken
    have hfits := h.fits d trivial
    obtain ⟨-, -, -, -, -, -, -, hgateTimer, hcause, -, -⟩ := hfits.moves
    have hgate : (s.domain d).gateTimer = none := by
      by_contra hne
      obtain e | e := hgateTimer.1 hne
      · exact nomatch hs.symm.trans e
      · exact nomatch hs.symm.trans e
    rw [State.freezeAfterTimeout_eq]
    have hopen := h.freezingStepEnds hs (.setDomain s d (c := (s.domain d).timedOut (s.domain d).cause) rfl rfl)
      (State.setDomain_domain_self ..) (fun _ => rfl) rfl rfl rfl (Domain.timedOut_movesSound hgate (hcause.2 (.inl hs)))
      hfits.current hfits.target rfl nofun
    have hraised : ((s.setDomain d ((s.domain d).timedOut (s.domain d).cause)).raise [(supervisor, .clockFault d)]).Open
        strict d := by
      rw [State.raise_eq]
      exact hopen.aside
    exact ⟨_, rfl, hraised.finish_whole.fallbackCheck _⟩

end Sys2Proof.Machine
end

section
/-! PROOFS. A rewritten setup or input of one domain, followed by its re-resolution, keeps the relations of a sound state;
and so do the events of parking, consent and waking. -/

-- The proofs are elaborated one after another: side by side they would exceed the memory that the check allows.
set_option Elab.async false

namespace Sys2Proof.Machine

variable {strict : Prop} {s t u : State} {d : DomainId}

/-! ### The setup and the inputs of one domain differ -/

/-- A domain fits by its levels in use, its rail and its own items. -/
theorem State.Fits.reads {e : DomainId} {c : Domain} (h : s.Fits e c) (hrailOf : t.railOf e = s.railOf e)
    (hrails : t.rails = s.rails)
    (hpoint : ∀ l, c.current = l ∨ c.target = l ∨ c.step = some l → t.point e l = s.point e l) : t.Fits e c := by
  have hrail (w : RailId) : t.rail w = s.rail w := by rw [State.rail, hrails]; rfl
  have hassured (w : RailId) : t.assured w = s.assured w := by rw [State.assured, hrail]; rfl
  have hcurrent := hpoint _ (.inl rfl)
  have htarget := hpoint _ (.inr (.inl rfl))
  have hstep (l : Level) (hl : l ∈ c.step) := hpoint l (.inr (.inr hl))
  have hcode (l : Level) (hl : t.point e l = s.point e l) : t.code e l = s.code e l := congrArg Point.volt hl
  constructor
  case current => rw [hcurrent]; exact h.current
  case target => rw [htarget]; exact h.target
  case step => intro l hl; rw [hstep l hl]; exact h.step l hl
  case moves => exact h.moves
  case held => rw [hrailOf, hrail]; exact h.held
  case shut => rw [hrailOf, hrail]; exact h.shut
  case inPlace => rw [hrailOf, hrail]; exact h.inPlace
  case frozen =>
    rw [hrailOf, hrail]
    intro hs hg
    have hold := h.frozen hs hg
    cases hc : c.step with
    | none => rw [hc] at hold; exact hcode _ hcurrent ▸ hold
    | some l => rw [hc] at hold; exact hcode _ (hstep l hc) ▸ hold
  case running =>
    rw [hrailOf, hrail, hassured]
    intro hf hr
    obtain ⟨hc, hl⟩ := h.running hf hr
    exact ⟨hcode _ hcurrent ▸ hc, fun l hlc => hcode _ (hstep l hlc) ▸ hl l hlc⟩
  case clock =>
    rw [hrailOf, hrail, hassured]
    exact fun hf hs l hl => hcode _ (hstep l hl) ▸ h.clock hf hs l hl
  case raising =>
    rw [hrailOf, hrail, hcode _ hcurrent, hcode _ htarget]
    exact h.raising

theorem State.SetupFits.reads {e : DomainId} (h : s.SetupFits e) (hsetup : t.setup e = s.setup e)
    (hrails : t.rails = s.rails) : t.SetupFits e := by
  have hp (l : Level) : t.point e l = s.point e l := by rw [State.point, hsetup]; rfl
  have hc (l : Level) : t.code e l = s.code e l := congrArg Point.volt (hp l)
  have hconfig : t.config e = s.config e := congrArg Setup.config hsetup
  have hrailOf : t.railOf e = s.railOf e := congrArg Configuration.rail hconfig
  have hrail (w : RailId) : t.rail w = s.rail w := by rw [State.rail, hrails]; rfl
  constructor
  case zero => rw [hp]; exact h.zero
  case rest => rw [hconfig, hp]; exact h.rest
  case safe => rw [hconfig, hp]; exact h.safe
  case limits => rw [hconfig]; exact h.limits
  case inside => intro l; rw [hp, hc, hrailOf, hrail]; exact h.inside l
  case fallback => rw [hconfig, hc, hrailOf, hrail]; exact h.fallback

theorem State.Closed.reads {e : DomainId} (h : s.Closed e) (hsetup : t.setup e = s.setup e)
    (hdomain : t.domain e = s.domain e) : t.Closed e := by
  have hc (l : Level) : t.code e l = s.code e l := by rw [State.code, State.point, hsetup]; rfl
  have hneed : t.needOf e = s.needOf e := by simp only [State.needOf, hdomain, hc]
  rw [State.Closed, hneed, hdomain, show t.config e = s.config e from congrArg Setup.config hsetup]
  exact h

/-- A rail reads of its domains only which they are, their needs and whether they are PARKED. -/
theorem State.Followed.reads {v : RailId} (h : s.Followed v) (hrails : t.rails = s.rails)
    (hmapped : ∀ e, t.railOf e = v ↔ s.railOf e = v) (hdomains : ∀ e, s.railOf e = v →
      (t.domain e).need = (s.domain e).need ∧ (t.domain e).state = (s.domain e).state) : t.Followed v := by
  have hrail (w : RailId) : t.rail w = s.rail w := by rw [State.rail, hrails]; rfl
  have hall : t.mapped v = s.mapped v := by simp only [State.mapped, hmapped]
  have hneeds : t.needs v = s.needs v := by
    rw [State.needs, State.needs, hall]
    exact List.filterMap_congr fun e he => (hdomains e (State.mem_mapped.1 he)).1
  have hparked : t.allParked v = s.allParked v := by
    rw [State.allParked, State.allParked, hall, Bool.eq_iff_iff, List.all_eq_true, List.all_eq_true]
    exact forall₂_congr fun e he => by rw [(hdomains e (State.mem_mapped.1 he)).2]
  have hrequired : t.requiredCode v = s.requiredCode v := by
    rw [State.requiredCode, State.requiredCode, hneeds, hparked, hrail]
  constructor <;> rw [hrail]
  · rw [hrequired]; exact h.required
  · exact h.idle
  · exact h.queued
  · rw [hparked]; exact h.state

/-- Where the new setup of domain d fits its rail, all that does not depend on what was rewritten is kept. -/
theorem State.Coherent.rewritten (h : s.Whole strict) (hsetup : ∀ e, e ≠ d → t.setup e = s.setup e)
    (hdomain : ∀ e, e ≠ d → t.domain e = s.domain e) (hstate : (t.domain d).state = (s.domain d).state)
    (hneed : (t.domain d).need = (s.domain d).need) (hnew : t.SetupFits d) (hrailOf : t.railOf d = s.railOf d)
    (hrails : t.rails = s.rails) (hlink : t.link = s.link) (hpark : t.park = s.park) (hrecords : t.records = s.records) :
    t.Coherent strict (· ≠ d) (· ≠ d) (fun _ => True) := by
  have hrail (w : RailId) : t.rail w = s.rail w := by rw [State.rail, hrails]; rfl
  have hrecord (k : Handle) : t.record k = s.record k := by rw [State.record, hrecords]; rfl
  have hmap (e : DomainId) : t.railOf e = s.railOf e := by
    by_cases he : e = d
    · rw [he]; exact hrailOf
    · exact congrArg (fun x : Setup => x.config.rail) (hsetup e he)
  have hsame (e : DomainId) : (t.domain e).need = (s.domain e).need ∧ (t.domain e).state = (s.domain e).state := by
    by_cases he : e = d
    · rw [he]; exact ⟨hneed, hstate⟩
    · rw [hdomain e he]; exact ⟨rfl, rfl⟩
  refine ⟨?_, h.elected.congr (by rw [hlink]) (by rw [State.linkBusy, hlink]; rfl) fun w =>
    State.waiting_congr (by rw [hrail])⟩
  constructor
  case setups =>
    intro e
    by_cases he : e = d
    · rw [he]; exact hnew
    · exact (h.setups e).reads (hsetup e he) hrails
  case fits =>
    intro e he
    rw [hdomain e he]
    exact (h.fits e trivial).reads (hmap e) hrails fun l _ => by rw [State.point, hsetup e he]; rfl
  case parked =>
    exact fun e he => (h.parked e trivial).congr (by rw [hdomain e he]; exact fun hp => ⟨hp, rfl⟩) fun hf =>
      (State.hasFloor_congr (t := s) e fun k => by rw [hrecord]).trans hf
  case statuses =>
    exact fun hq e he => (h.statuses hq e trivial).congr (hsame e).2 fun k q hk hd => ⟨q, hrecord k ▸ hk, hd, rfl⟩
  case rails => intro w; rw [hrail]; exact h.rails w
  case consent => exact h.consent.congr (by rw [hpark]) (by rw [hpark]) fun e => by rw [(hsame e).2]
  case transfer =>
    exact h.transfer.congr (by rw [hlink]) (by rw [hlink]) (by rw [hlink]) (by rw [hlink]) fun w _ _ => by rw [hrail]
  case closed => exact fun e he => (h.closed e trivial).reads (hsetup e he) (hdomain e he)
  case followed => exact fun w _ => (h.followed w trivial).reads hrails (fun e => by rw [hmap]) fun e _ => hsame e

/-- The re-resolution that follows restores the rest. -/
theorem State.Coherent.rewrites (h : s.Whole strict) (hrest : t.Coherent strict (· ≠ d) (· ≠ d) (fun _ => True))
    (hfits : t.Fits d (t.domain d)) (hstate : (t.domain d).state = (s.domain d).state) (hrecords : t.records = s.records) :
    (t.reresolve d).Whole strict := by
  refine hrest.reresolve (fun _ he => he) (fun _ he => he) (fun _ _ => trivial) hfits fun hq =>
    (h.statuses hq d trivial).congr hstate fun k q hk hd => ⟨q, ?_, hd, rfl⟩
  rw [State.record, hrecords] at hk
  exact hk

/-- Another force level or line level. -/
theorem State.Coherent.inputs (h : s.Whole strict) (force : Option Level) (throttled : Bool) :
    ((s.setDomain d { s.domain d with force := force, throttled := throttled }).reresolve d).Whole strict := by
  have hown : (s.setDomain d { s.domain d with force := force, throttled := throttled }).domain d =
      { s.domain d with force := force, throttled := throttled } := State.setDomain_domain_self ..
  have hfits := h.fits d trivial
  refine h.rewrites (h.rewritten (fun _ _ => rfl) (fun e he => ?_) (by rw [hown]) (by rw [hown])
    ((h.setups d).reads rfl rfl) rfl rfl rfl rfl rfl) ?_ (by rw [hown]) rfl
  · rw [State.setDomain_domain, if_neg he]
  · rw [hown]
    refine State.Fits.reads (s := s) ?_ rfl rfl fun _ _ => rfl
    exact ⟨hfits.current, hfits.target, hfits.step, hfits.moves, hfits.held, hfits.shut, hfits.inPlace, hfits.frozen,
      hfits.running, hfits.clock, hfits.raising⟩

theorem execThrottleEdge_keeps (h : s.Whole strict) (line : ThrottleLine) (rising : Bool) :
    ∃ t, execThrottleEdge line rising s = .next t ∧ t.Whole strict := by
  have hfold (es : List DomainId) (u : State) (hu : u.Whole strict) : (es.foldl (State.takeEdge rising) u).Whole strict := by
    induction es generalizing u with
    | nil => exact hu
    | cons e es ih => exact ih _ (hu.inputs (u.domain e).force rising)
  by_cases hedge : s.thr line = rising
  · exact ⟨s, if_pos hedge, h⟩
  · obtain ⟨es, choices, -, -, hexec⟩ := execThrottleEdge_eq hedge
    refine ⟨_, hexec, hfold es _ ?_⟩
    cases line <;> exact h.aside

end Sys2Proof.Machine
end

section
/-! PROOFS. The events of parking, consent and waking, and the changes of the assured code, keep the relations of a sound
state. -/

-- The proofs are elaborated one after another: side by side they would exceed the memory that the check allows.
set_option Elab.async false

namespace Sys2Proof.Machine

variable {strict : Prop} {s t u : State} {d : DomainId}

/-! ### Changes of the assured code (R67, R83) -/

theorem State.Coherent.newsTaken (h : s.Whole strict) (d : DomainId) : (s.newsTaken d).Whole strict := by
  refine h.paced (fun e => ?_) rfl
  rw [State.newsTaken, State.setDomain_domain]
  split
  · next he => rw [he]; exact .news _ _
  · exact .refl _

/-- A domain in RAISING whose target is covered steps to it. -/
theorem State.Fits.raised (h : s.Fits d (s.domain d)) (hs : (s.domain d).state = .raising)
    (hcover : s.code d (s.domain d).target ≤ s.assured (s.railOf d)) (hstatuses : strict → s.StatusesFit d) :
    s.Moved strict d (s.startStep d .stepping (s.domain d).target) := by
  have hruns := h.runs (.inr (.inl hs))
  obtain ⟨⟨⟨hstep, hlock, hgate, hcause⟩, hcurrent, htarget, hfree⟩, hgated, hcovered⟩ := hruns
  have hsettled : (s.domain d).settled = false := h.moves.not_settled (by simp [hs])
  have hown : (s.startStep d .stepping (s.domain d).target).domain d = { s.domain d with
      state := .stepping, step := some (s.domain d).target
      strobe := some (.step (s.point d (s.domain d).target).clock), lockTimer := none } := State.setDomain_domain_self ..
  refine ⟨.startStep s d _ _, ?_, fun hp => ?_, fun hq => (hstatuses hq).of_alike (fun _ => rfl) ?_ ?_⟩
  · rw [hown]
    refine .of_free hfree hcurrent htarget (fun l hl => Option.some.inj hl ▸ htarget) ?_ nofun nofun
      (fun _ => ⟨hcovered, fun l hl => Option.some.inj hl ▸ hcover⟩) nofun nofun
    simp [Domain.MovesSound, DomainState.gate, hgate, hcause, hgated, hsettled]
  · rw [hown] at hp; cases hp
  · rw [hown, hs]; exact iff_of_false (by simp) (by simp)
  · rw [hs]; exact fun hx => hx.elim nofun nofun

theorem execAssuredCodeChange_keeps (h : s.Whole strict) (d : DomainId) :
    ∃ t, execAssuredCodeChange d s = .next t ∧ t.Whole strict := by
  cases hnews : (s.domain d).assuredNews with
  | false => exact ⟨s, if_neg (by simp [hnews]), h⟩
  | true =>
    have htaken := h.newsTaken d
    have hfits := htaken.fits d trivial
    have hown := s.newsTaken_domain d
    by_cases hrail : (s.domain d).state = .waking .rail
    · have hs : ((s.newsTaken d).domain d).state = .waking .rail := by rw [hown]; exact hrail
      refine ⟨_, execAssuredCodeChange_rail hnews hrail, State.Moved.ends_unmoved ((hfits.ready (by simp [hs])).checkRailStage
        hs (hfits.moves.gated_eq (by rw [hs]; rfl)) (hfits.moves.not_settled (by simp [hs])) fun hq =>
        htaken.statuses hq d trivial) htaken ((s.newsTaken d).checkRailStage_park d) ?_⟩
      rw [State.checkRailStage_domain, hs]
      split <;> simp [hs]
    by_cases hraising : (s.domain d).state = .raising ∧ s.code d (s.domain d).target ≤ s.assured (s.railOf d)
    · have hs : ((s.newsTaken d).domain d).state = .raising := by rw [hown]; exact hraising.1
      have htarget : ((s.newsTaken d).domain d).target = (s.domain d).target := by rw [hown]
      have hmoved := hfits.raised (strict := strict) hs (by rw [htarget]; exact hraising.2) fun hq =>
        htaken.statuses hq d trivial
      rw [htarget] at hmoved
      refine ⟨_, execAssuredCodeChange_raising hnews hraising.1 hraising.2, hmoved.ends_unmoved htaken rfl ?_⟩
      rw [hs, State.startStep, State.setDomain_domain_self]
      exact iff_of_false nofun nofun
    · exact ⟨_, execAssuredCodeChange_other hnews hraising hrail, htaken⟩

/-! ### The gate settle timers (R115 to R120) -/

/-- A domain in PARKING or in the GATE stage of a wake whose timer has run out is ready to go on. -/
theorem State.Fits.gateSettled (h : s.Fits d (s.domain d))
    (hs : (s.domain d).state = .parking ∨ (s.domain d).state = .waking .gate) :
    (s.gateSettled d).Ready d ((s.gateSettled d).domain d) := by
  have hown := s.gateSettled_domain d
  have hnot : (s.domain d).state ≠ .frozen ∧ (s.domain d).state ≠ .off ∧ (s.domain d).state ≠ .stepping ∧
      (s.domain d).state ≠ .waking .clock := by
    obtain e | e := hs <;> simp [e]
  have hstep : (s.domain d).step = none := by
    by_contra hne
    obtain e | e | ⟨e, -⟩ := h.moves.step_states hne
    exacts [hnot.2.2.1 e, hnot.2.2.2 e, hnot.1 e]
  have hlock : (s.domain d).lockTimer = none := by_contra fun hne => (h.moves.lockTimer_states hne).1 hstep
  have hcause : (s.domain d).cause = .none := by
    obtain ⟨-, -, -, -, -, -, -, -, hcs, -, -⟩ := h.moves
    exact by_contra fun hne => (hcs.1 hne).elim hnot.1 hnot.2.1
  rw [hown]
  exact State.Ready.congr ⟨⟨hstep, hlock, rfl, hcause⟩, h.current, h.target,
    h.free (fun hf => absurd hf hnot.1) hnot.2.1⟩ (.gateSettled s d)

theorem execGateSettleExpiry_keeps (h : s.Whole strict) (d : DomainId) :
    ∃ t, execGateSettleExpiry d s = .next t ∧ t.Whole strict := by
  by_cases htaken : (s.domain d).gateTimer ≠ none ∧ (s.domain d).state = .parking
  case neg =>
    exact ⟨s, if_neg fun hc => htaken ⟨Option.isSome_iff_ne_none.1 hc.1, hc.2⟩, h⟩
  obtain ⟨htimer, hs⟩ := htaken
  have hfits := h.fits d trivial
  have hready := hfits.gateSettled (.inl hs)
  have hown := s.gateSettled_domain d
  have hmove := State.DomainMove.gateSettled s d
  have hsettled : ((s.gateSettled d).domain d).settled = false := by
    rw [hown]; exact hfits.moves.not_settled (by simp [hs])
  have hnone (hq : strict) : (s.gateSettled d).NoneHeld d :=
    ((h.statuses hq d trivial).noneHeld (by simp [hs]) (by simp [hs])).congr fun _ => rfl
  cases hwanted : s.wanted d with
  | true =>
    refine ⟨_, execGateSettleExpiry_wakes htimer hs hwanted, (hmove.moved (hready.beginWake hsettled hnone)).ends_unmoved h
      ((s.gateSettled d).beginWake_park d) ?_⟩
    rw [State.beginWake_domain, hs]
    split <;> exact iff_of_false nofun nofun
  | false =>
    refine ⟨_, execGateSettleExpiry_parks htimer hs hwanted, (hmove.moved (hready.enterParked hsettled
      ((s.gateSettled_wanted d).trans hwanted) hnone)).ends_unmoved h ((s.gateSettled d).enterParked_park d) ?_⟩
    rw [State.enterParked_domain, hs]
    exact iff_of_false nofun nofun

/-- The CLOCK stage, or the RAIL stage again (R120). -/
theorem State.Ready.enterClock (h : s.Ready d (s.domain d)) (hs : (s.domain d).state = .waking .gate)
    (hgated : (s.domain d).gated = false) (hsettled : (s.domain d).settled = false)
    (hstatuses : strict → s.StatusesFit d) : s.Moved strict d (s.enterClock d) := by
  have hown := s.enterClock_domain d
  have hrecord (k : Handle) : (s.enterClock d).record k = s.record k := by
    rw [State.record, (s.enterClock_rest d).1]; rfl
  obtain ⟨hstep, hlock, hgate, hcause⟩ := h.idle
  by_cases hlow : s.assured (s.railOf d) < s.code d (s.domain d).target
  case pos =>
    rw [if_pos hlow] at hown
    refine ⟨.enterClock s d, ?_, fun hp => ?_, fun hq => (hstatuses hq).of_alike hrecord ?_ ?_⟩
    · rw [hown]
      refine h.fits rfl rfl hstep ?_ nofun nofun rfl
      simp [Domain.MovesSound, DomainState.gate, hstep, hlock, hgate, hcause, hsettled]
    · rw [hown] at hp; cases hp
    · rw [hown, hs]; exact iff_of_false (by simp) (by simp)
    · rw [hs]; exact fun hx => hx.elim nofun nofun
  case neg =>
    rw [if_neg hlow] at hown
    have hcover := BitVec.not_lt.1 hlow
    refine ⟨.enterClock s d, ?_, fun hp => ?_, fun hq => (hstatuses hq).of_alike hrecord ?_ ?_⟩
    · rw [hown]
      refine .of_free h.free h.current h.target (fun l hl => Option.some.inj hl ▸ h.target) ?_ nofun nofun (fun hr => ?_)
        (fun _ l hl => Option.some.inj hl ▸ hcover) nofun
      · simp [Domain.MovesSound, DomainState.gate, hgate, hcause, hgated, hsettled]
      · simp [Domain.running] at hr
    · rw [hown] at hp; cases hp
    · rw [hown, hs]; exact iff_of_false (by simp) (by simp)
    · rw [hs]; exact fun hx => hx.elim nofun nofun

theorem execWakeGateSettleExpiry_keeps (h : s.Whole strict) (d : DomainId) :
    ∃ t, execWakeGateSettleExpiry d s = .next t ∧ t.Whole strict := by
  by_cases htaken : (s.domain d).gateTimer ≠ none ∧ (s.domain d).state = .waking .gate
  case neg =>
    exact ⟨s, if_neg fun hc => htaken ⟨Option.isSome_iff_ne_none.1 hc.1, hc.2⟩, h⟩
  obtain ⟨htimer, hs⟩ := htaken
  have hfits := h.fits d trivial
  have hown := s.gateSettled_domain d
  have hmoved := (hfits.gateSettled (.inr hs)).enterClock (strict := strict) (by rw [hown]; exact hs)
    (by rw [hown]; exact hfits.moves.gated_eq (by rw [hs]; rfl))
    (by rw [hown]; exact hfits.moves.not_settled (by simp [hs])) fun hq =>
    (h.statuses hq d trivial).of_alike (fun _ => rfl) (by rw [hown]) (by rw [hown]; exact id)
  refine ⟨_, execWakeGateSettleExpiry_enters htimer hs, ((State.DomainMove.gateSettled s d).moved hmoved).ends_unmoved h
    ((s.gateSettled d).enterClock_rest d).2.2 ?_⟩
  rw [State.enterClock_domain, hs]
  split <;> exact iff_of_false nofun nofun

/-! ### The consent channel (R79, R106 to R112) -/

/-- The request at the head of the queue is sent. -/
theorem State.Coherent.serveConsent (h : s.Whole strict) : s.serveConsent.Whole strict := by
  have hconsent := h.consent.serve
  rw [State.serveConsent_frame] at hconsent ⊢
  exact ⟨h.toConsistent.congr rfl (fun _ => .refl _) (fun _ => .refl _) hconsent
    (h.transfer.congr rfl .rfl .rfl rfl fun _ _ _ => .rfl) (fun _ _ _ hf => hf) h.statuses,
    h.elected.congr rfl rfl fun _ => rfl⟩

/-- A settled domain asks for consent. -/
theorem State.Fits.asks (h : s.Fits d (s.domain d)) (hs : (s.domain d).state = .steady)
    (hdomain : t.domain d = { s.domain d with state := .consent, settled := false, quietTimer := none })
    (hmove : s.DomainMove d t) (hrecord : ∀ k, t.record k = (s.asking d).record k) (hstatuses : strict → s.StatusesFit d) :
    s.Moved strict d t := by
  obtain ⟨⟨⟨hstep, hlock, hgate, hcause⟩, hcurrent, htarget, hfree⟩, hgated, hcovered⟩ := h.runs (.inl hs)
  refine ⟨hmove, ?_, fun hp => ?_, fun hq => .of_unsettled (s := s) (by rw [hdomain]; exact ⟨nofun, nofun⟩)
    ((hstatuses hq).noneHeld (by simp [hs]) (by simp [hs])) fun k => (hrecord k).trans ?_⟩
  · rw [hdomain]
    refine .of_free hfree hcurrent htarget (fun l hl => nomatch hstep.symm.trans hl) ?_ nofun nofun
      (fun _ => ⟨hcovered, fun l hl => nomatch hstep.symm.trans hl⟩) nofun nofun
    simp [Domain.MovesSound, DomainState.gate, hstep, hlock, hgate, hcause, hgated]
  · rw [hdomain] at hp; cases hp
  · exact (s.setDomain d { s.domain d with state := .consent, settled := false, quietTimer := none }).unsettleRecords_record d k

theorem execQuietTimerExpiry_keeps (h : s.Whole strict) (d : DomainId) :
    ∃ t, execQuietTimerExpiry d s = .next t ∧ t.Whole strict := by
  by_cases htaken : (s.domain d).quietTimer ≠ none ∧ (s.domain d).state = .steady
  case neg =>
    exact ⟨s, if_neg fun hc => htaken ⟨Option.isSome_iff_ne_none.1 hc.1, hc.2⟩, h⟩
  obtain ⟨hquiet, hs⟩ := htaken
  have hnot : (s.domain d).state ≠ .consent := by rw [hs]; nofun
  have hjoined := State.joined_eq h.consent hnot
  have hdomain := State.joined_domain h.consent hnot
  obtain ⟨hnodup, hout, hmem⟩ := h.consent
  have hd : ¬(d ∈ s.park.queue ∨ s.park.request.map Prod.fst = some d) := mt (hmem d).2 hnot
  obtain ⟨hqueue, hrequest⟩ := not_or.1 hd
  have hstate (e : DomainId) : ((s.atTail d).domain e).state = .consent ↔ e = d ∨ (s.domain e).state = .consent := by
    by_cases he : e = d
    · rw [he]
      exact iff_of_true (congrArg Domain.state (s.asking_domain d)) (.inl rfl)
    · have hother : (s.atTail d).domain e = s.domain e := (State.DomainMove.asking s d).frame.domains e he
      rw [hother]
      simp [he]
  have htail : (s.atTail d).ConsentSound := by
    have htail : (s.park.queue ++ [d]).Nodup := by
      have hconcat := hnodup.concat hqueue
      rwa [List.concat_eq_append] at hconcat
    refine ⟨htail, fun x hx hm => ?_, fun e => ?_⟩
    · obtain hm | hm := List.mem_append.1 hm
      · exact hout x hx hm
      · have hxd : s.park.request = some x := hx
        exact hrequest (by rw [hxd, ← List.mem_singleton.1 hm]; rfl)
    · rw [hstate, hmem]
      simp only [State.atTail, List.mem_append, List.mem_singleton]
      tauto
  refine ⟨_, execQuietTimerExpiry_asks hquiet hs, State.Moved.ends ((h.fits d trivial).asks hs hdomain (.joined s d)
    (fun k => ?_) fun hq => h.statuses hq d trivial) h (hjoined ▸ htail.serve)⟩
  rw [hjoined, State.serveConsent_record]
  rfl

/-- The request of domain d has ended, and d has left CONSENT. -/
theorem State.ConsentSound.answered {n : Nat} (h : s.ConsentSound) (hrequest : s.park.request = some (d, n))
    (hpark : t.park = { s.park with request := none })
    (hstates : ∀ e, (t.domain e).state = .consent ↔ (s.domain e).state = .consent ∧ e ≠ d) : t.ConsentSound := by
  obtain ⟨-, hqueue⟩ := h.subject hrequest
  refine h.leave (ds := [d]) ?_ ?_ fun e => by rw [hstates, List.mem_singleton]
  · rw [hpark]
    refine (List.filter_eq_self.2 fun e he => ?_).symm
    simp only [List.mem_singleton, decide_not, Bool.not_eq_true', decide_eq_false_iff_not]
    rintro rfl
    exact hqueue he
  · rw [hpark, hrequest]
    simp [Option.filter]

section Answer
variable {n : Nat} (h : s.Whole strict) (hrequest : s.park.request = some (d, n))
include h hrequest

theorem State.Coherent.grantedRequest : ((s.endRequest.granted d).finish d).Whole strict := by
  obtain ⟨hs, -⟩ := h.consent.subject hrequest
  have hfits := h.fits d trivial
  have hready := hfits.ready (.inr (.inr (.inl hs)))
  have hown : (s.endRequest.granted d).domain d = { s.domain d with
      state := .parking, strobe := some .stop, gated := true
      gateTimer := some ((s.config d).gateCount.toNat * 10) } := s.endRequest.granted_domain d
  have hmove := State.DomainMove.grantedRequest s d
  obtain ⟨hstep, hlock, -, hcause⟩ := hready.idle
  refine State.Moved.ends ⟨hmove, ?_, fun hp => ?_, fun hq => (h.statuses hq d trivial).of_alike (fun _ => rfl) ?_ ?_⟩ h
    (h.consent.answered hrequest rfl fun e => ?_)
  · rw [hown]
    refine hready.fits rfl rfl hstep ?_ nofun nofun rfl
    simp [Domain.MovesSound, DomainState.gate, hstep, hlock, hcause, hfits.moves.not_settled (by simp [hs])]
  · rw [hown] at hp; cases hp
  · rw [hown, hs]; exact iff_of_false (by simp) (by simp)
  · rw [hs]; exact fun hx => hx.elim nofun nofun
  · by_cases he : e = d
    · rw [he, hown]; exact iff_of_false nofun fun hc => hc.2 rfl
    · rw [hmove.frame.domains e he]; exact (and_iff_left he).symm

theorem State.Coherent.deniedRequest : ((s.endRequest.denied d).finish d).Whole strict := by
  obtain ⟨hs, -⟩ := h.consent.subject hrequest
  have hruns := (h.fits d trivial).runs (.inr (.inr hs))
  have hmid : s.DomainMove d (s.endRequest.setDomain d { s.endRequest.domain d with state := .steady }) :=
    (State.DomainMove.endRequest s d).trans (.setDomain _ d rfl rfl)
  have hown : (s.endRequest.setDomain d { s.endRequest.domain d with state := .steady }).domain d =
      { s.domain d with state := .steady } := State.setDomain_domain_self ..
  refine (hmid.moved (State.Runs.plan ?_ fun hq => ?_)).ends h (State.ConsentSound.plan
    (h.consent.answered hrequest rfl fun e => ?_) (by rw [hown]; nofun))
  · rw [hown]
    exact State.Runs.congr ⟨⟨⟨hruns.idle.step, hruns.idle.lock, hruns.idle.gate, hruns.idle.cause⟩, hruns.current,
      hruns.target, hruns.free⟩, hruns.gated, hruns.covered⟩ hmid
  · exact ((h.statuses hq d trivial).noneHeld (by simp [hs]) (by simp [hs])).congr fun _ => rfl
  · by_cases he : e = d
    · rw [he, hown]; exact iff_of_false nofun fun hc => hc.2 rfl
    · rw [hmid.frame.domains e he]; exact (and_iff_left he).symm

theorem State.Coherent.answerConsent (allow : Bool) : (s.answerConsent d allow).Whole strict := by
  obtain ⟨hs, -⟩ := h.consent.subject hrequest
  cases allow with
  | true => rw [State.answerConsent_granted hs]; exact (h.grantedRequest hrequest).serveConsent
  | false => rw [State.answerConsent_denied hs]; exact (h.deniedRequest hrequest).serveConsent

end Answer

theorem execCgrantRise_keeps (h : s.Whole strict) : ∃ t, execCgrantRise s = .next t ∧ t.Whole strict := by
  unfold execCgrantRise
  split
  · exact ⟨s, rfl, h⟩
  · have hhigh : s.grantHigh.Whole strict := h.aside
    dsimp only
    split
    · exact ⟨_, rfl, hhigh⟩
    · next x hx => exact ⟨_, rfl, hhigh.answerConsent (n := x.2) hx true⟩

theorem execCdenyRise_keeps (h : s.Whole strict) : ∃ t, execCdenyRise s = .next t ∧ t.Whole strict := by
  unfold execCdenyRise
  split
  · exact ⟨s, rfl, h⟩
  · have hhigh : s.denyHigh.Whole strict := h.aside
    dsimp only
    split
    · exact ⟨_, rfl, hhigh⟩
    · next x hx => exact ⟨_, rfl, hhigh.answerConsent (n := x.2) hx false⟩

theorem execConsentLineFall_keeps (h : s.Whole strict) (line : AnswerLine) :
    ∃ t, execConsentLineFall line s = .next t ∧ t.Whole strict := by
  have hpins (pins : Pins) : State.Whole strict { s with pins := pins } := h.aside
  unfold execConsentLineFall
  cases line
  all_goals
    dsimp only
    split
    · exact ⟨_, rfl, (hpins _).serveConsent⟩
    · exact ⟨s, rfl, h⟩

theorem execConsentTimeout_keeps (h : s.Whole strict) : ∃ t, execConsentTimeout s = .next t ∧ t.Whole strict := by
  unfold execConsentTimeout
  split
  · exact ⟨s, rfl, h⟩
  · next x hx =>
    have htold : (s.place (supervisor, .consentSilent x.1)).Whole strict := h.aside
    exact ⟨_, rfl, htold.answerConsent (n := x.2) hx _⟩

end Sys2Proof.Machine
end

section
/-! PROOFS. The requests and events of the demand table, of the ports and of the notice unit keep the relations of a sound
state. -/

-- The proofs are elaborated one after another: side by side they would exceed the memory that the check allows.
set_option Elab.async false

namespace Sys2Proof.Machine

variable {strict : Prop} {s t u : State} {d : DomainId}

/-! ### Records filed, rewritten and retired -/

/-- The controllers are as they were, and every record has the status of one that was there for its domain, or that of a
new one (R11, R12). -/
structure State.Refiled (s t : State) : Prop where
  setups : t.setups = s.setups
  domains : t.domains = s.domains
  rails : t.rails = s.rails
  link : t.link = s.link
  park : t.park = s.park
  status : ∀ k q, t.record k = some q → q.status = s.startStatus q.domain ∨
    ∃ i r, s.record i = some r ∧ r.domain = q.domain ∧ r.status = q.status

/-- A record of `t` for a FLOOR is one of `s`, unless its domain may wake. -/
def State.FloorsFrom (s t : State) (fit : DomainId → Prop) : Prop :=
  ∀ k q, t.record k = some q → q.cls = .floor → fit q.domain → (s.domain q.domain).state = .parked →
    ∃ i r, s.record i = some r ∧ r.domain = q.domain ∧ r.cls = .floor

theorem State.Refiled.domain (h : s.Refiled t) (e : DomainId) : t.domain e = s.domain e := by
  rw [State.domain, h.domains]; rfl

theorem State.Refiled.rail (h : s.Refiled t) (w : RailId) : t.rail w = s.rail w := by
  rw [State.rail, h.rails]; rfl

/-- The status of a new record fits the state of its domain (R11). -/
theorem State.startStatus_fits (s : State) (e : DomainId) :
    (s.startStatus e = .held ↔ ((s.domain e).state = .frozen ∨ (s.domain e).state = .off)) ∧
      s.startStatus e ≠ .inForce ∧ s.startStatus e ≠ .clamped := by
  by_cases hs : (s.domain e).state = .frozen ∨ (s.domain e).state = .off
  · have hstart : s.startStatus e = .held := if_pos (by simpa using hs)
    rw [hstart]
    exact ⟨iff_of_true rfl hs, nofun, nofun⟩
  · have hstart : s.startStatus e = .pending := if_neg (by simpa using hs)
    rw [hstart]
    exact ⟨iff_of_false nofun hs, nofun, nofun⟩

theorem State.Refiled.statusesFit (h : s.Refiled t) {e : DomainId} (hs : s.StatusesFit e) : t.StatusesFit e := by
  intro k q hq hd
  rw [h.domain]
  obtain hstart | ⟨i, r, hr, hrd, hrs⟩ := h.status k q hq
  · obtain ⟨hheld, hforce, hclamped⟩ := s.startStatus_fits e
    rw [hstart, hd]
    exact ⟨hheld, fun hx => (hx.elim hforce hclamped).elim⟩
  · rw [← hrs]
    exact hs i r hr (hrd.trans hd)

theorem State.Refiled.coherent {fit : DomainId → Prop} (h : s.Refiled t) (hs : s.Whole strict)
    (hfloors : s.FloorsFrom t fit) : t.Coherent strict fit (fun _ => True) (fun _ => True) := by
  have hold : s.Consistent strict fit (fun _ => True) (fun _ => True) :=
    hs.toConsistent.mono (fun _ _ => trivial) (fun _ => id) fun _ => id
  refine ⟨hold.congr h.setups (fun e => by rw [h.domain]; exact .refl _) (fun w => by rw [h.rail]; exact .refl _)
    (hs.consent.congr (by rw [h.park]) (by rw [h.park]) fun e => by rw [h.domain])
    (hs.transfer.congr (by rw [h.link]) (by rw [h.link]) (by rw [h.link]) (by rw [h.link]) fun w _ _ => by rw [h.rail])
    (fun e he hparked hf => ?_) fun hq e he => h.statusesFit (hs.statuses hq e trivial),
    hs.elected.congr (by rw [h.link]) (by rw [State.linkBusy, h.link]; rfl) fun w => State.waiting_congr (by rw [h.rail])⟩
  obtain ⟨k, q, hq, hd, hcls⟩ := State.hasFloor_iff.1 hf
  obtain rfl := hd
  obtain ⟨i, r, hr, hrd, hrc⟩ := hfloors k q hq hcls he hparked
  exact State.hasFloor_iff.2 ⟨i, r, hr, hrd, hrc⟩

/-- No record is new. -/
theorem State.Coherent.of_fewer (hrec : ∀ k q, t.record k = some q → ∃ r, s.record k = some r ∧ r.domain = q.domain ∧
      r.cls = q.cls ∧ r.status = q.status) (hs : s.Whole strict) (hsetups : t.setups = s.setups := by rfl)
    (hdomains : t.domains = s.domains := by rfl) (hrails : t.rails = s.rails := by rfl)
    (hlink : t.link = s.link := by rfl) (hpark : t.park = s.park := by rfl) : t.Whole strict := by
  refine State.Refiled.coherent ⟨hsetups, hdomains, hrails, hlink, hpark, fun k q hq => .inr ?_⟩ hs fun k q hq hc _ _ => ?_
  · obtain ⟨r, hr, hd, -, hst⟩ := hrec k q hq
    exact ⟨k, r, hr, hd, hst⟩
  · obtain ⟨r, hr, hd, hcls, -⟩ := hrec k q hq
    exact ⟨k, r, hr, hd, hcls.trans hc⟩

/-! ### Retirement (R16) -/

theorem State.Coherent.retire (h : s.Whole strict) (k : Handle) : (s.retire k).Whole strict := by
  have hframe := s.retire_frame k
  refine .of_fewer (fun i q hq => ⟨q, ?_, rfl, rfl, rfl⟩) h (by rw [hframe]) (by rw [hframe]) (by rw [hframe])
    (by rw [hframe]) (by rw [hframe])
  rw [State.retire_record] at hq
  split at hq
  · cases hq
  · exact hq

theorem State.Coherent.retireNotified (h : s.Whole strict) (k : Handle) : (s.retireNotified k).Whole strict := by
  have hframe := s.retireNotified_frame k
  refine .of_fewer (fun i q hq => ⟨q, ?_, rfl, rfl, rfl⟩) h (by rw [hframe]) (by rw [hframe]) (by rw [hframe])
    (by rw [hframe]) (by rw [hframe])
  rw [State.retireNotified_record] at hq
  split at hq
  · cases hq
  · exact hq

theorem State.Coherent.retireSelected {out : State → Handle → State}
    (hout : ∀ (u : State) (k : Handle), u.Whole strict → (out u k).Whole strict) (h : s.Whole strict)
    (gone : List (Handle × Record)) : (s.retireSelected out gone).Whole strict := by
  have hfold (ks : List Handle) (u : State) (hu : u.Whole strict) : (ks.foldl out u).Whole strict := by
    induction ks generalizing u with
    | nil => exact hu
    | cons k ks ih => exact ih _ (hout u k hu)
  exact State.Coherent.aside (hfold (gone.map Prod.fst) s h)

theorem State.Coherent.report (h : s.Whole strict) (d : DomainId) (k : Handle) (kind : ReportKind) :
    (s.report d k kind).Whole strict := h.aside

/-! ### FILE (R10 to R12) -/

/-- A record is put at a handle: it has the status of a new one, or that of the record it rewrites. -/
theorem State.Refiled.setRecord {k : Handle} {q : Record} (hq : q.status = s.startStatus q.domain ∨
    ∃ r, s.record k = some r ∧ r.domain = q.domain ∧ r.status = q.status) : s.Refiled (s.setRecord k (some q)) := by
  refine ⟨rfl, rfl, rfl, rfl, rfl, fun i w hw => ?_⟩
  rw [State.setRecord_record] at hw
  split at hw
  · obtain rfl := Option.some.inj hw
    exact hq.imp_right fun ⟨r, hr⟩ => ⟨k, r, hr⟩
  · exact .inr ⟨i, w, hw, rfl, rfl⟩

theorem State.FloorsFrom.setRecord {k : Handle} {q : Record} {fit : DomainId → Prop} (hq : q.cls = .floor → fit q.domain →
      (s.domain q.domain).state = .parked → ∃ i r, s.record i = some r ∧ r.domain = q.domain ∧ r.cls = .floor) :
    s.FloorsFrom (s.setRecord k (some q)) fit := by
  intro i w hw hcls hfit hparked
  rw [State.setRecord_record] at hw
  split at hw
  · obtain rfl := Option.some.inj hw
    exact hq hcls hfit hparked
  · exact ⟨i, w, hw, rfl, hcls⟩

/-- A record is rewritten for the same domain and class. -/
theorem State.Coherent.rewriteRecord (h : s.Whole strict) {k : Handle} {r q : Record} (hr : s.record k = some r)
    (hd : q.domain = r.domain) (hcls : q.cls = r.cls) (hstatus : q.status = s.startStatus q.domain ∨ q.status = r.status) :
    (s.setRecord k (some q)).Whole strict :=
  (State.Refiled.setRecord (hstatus.imp_right fun hst => ⟨r, hr, hd.symm, hst.symm⟩)).coherent h
    (.setRecord fun hc _ _ => ⟨k, r, hr, hd.symm, hcls.symm.trans hc⟩)

/-- The creation of a record, with the wake of a PARKED domain that a FLOOR brings about (R11, R116). -/
theorem State.Coherent.createRecord (h : s.Whole strict) (p : PortId) (d : DomainId) (cls : DemandClass) (level : Level)
    (lease : BitVec 16) (tag : Byte) (k : Handle) : (s.createRecord p d cls level lease tag k).Whole strict := by
  unfold State.createRecord State.reportCreated
  dsimp only
  split
  · have hnew {q : Record} (hq : q.status = s.startStatus q.domain) : s.Refiled (s.setRecord k (some q)) :=
      .setRecord (.inl hq)
    refine State.Coherent.reresolve ((hnew rfl).coherent h (fit := (· ≠ d)) (.setRecord fun _ hne _ => absurd rfl hne))
      (fun _ he => he) (fun _ _ => trivial) (fun _ _ => trivial) ?_ fun hq => (hnew rfl).statusesFit (h.statuses hq d trivial)
    exact (h.fits d trivial).reads rfl rfl fun _ _ => rfl
  · next hstays =>
    refine State.Coherent.report (State.Refiled.coherent (.setRecord (.inl rfl)) h (.setRecord fun hc _ hparked => ?_)) d k _
    exact absurd (by rw [Bool.and_eq_true, decide_eq_true_eq, decide_eq_true_eq]; exact ⟨hc, hparked⟩) hstays

theorem State.Coherent.fileRequest (h : s.Whole strict) (p : PortId) (d : DomainId) (cls : DemandClass) (level : Level)
    (lease : BitVec 16) (tag : Byte) : (s.fileRequest p d cls level lease tag).1.Whole strict := by
  rcases s.fileRequest_cases p d cls level lease tag with ⟨_, e⟩ | ⟨k, r, hfind, e⟩ | ⟨k, -, -, -, -, e⟩ <;> rw [e]
  · exact h
  · obtain ⟨hr, -, hd, -⟩ := State.record_of_findKey hfind
    exact (h.rewriteRecord (q := r.replaced level lease tag (s.startStatus d)) hr rfl rfl (.inl (by rw [← hd]; rfl))).aside
  · exact h.createRecord p d cls level lease tag k

/-! ### The other requests of the demand table -/

theorem State.Coherent.onOwnRecord (h : s.Whole strict) (p : PortId) (k : Handle) {body : Record → State × Reply}
    (hbody : ∀ r, s.record k = some r → (body r).1.Whole strict) : (s.onOwnRecord p k body).1.Whole strict := by
  unfold State.onOwnRecord
  split
  · exact h
  · next r hr =>
    split
    · exact hbody r hr
    · exact h

theorem State.Coherent.release (h : s.Whole strict) (p : PortId) (k : Handle) :
    (s.onOwnRecord p k fun r => ((s.retire k).report r.domain k .retired, .ok r.tag r.generation 0 0 0 0)).1.Whole strict :=
  h.onOwnRecord p k fun r _ => (h.retire k).report r.domain k _

theorem State.Coherent.renew (h : s.Whole strict) (p : PortId) (k : Handle) (lease : BitVec 16) :
    (s.onOwnRecord p k fun r =>
      (s.setRecord k (some { r with lease := leaseOf lease }), .ok r.tag r.generation 0 0 0 0)).1.Whole strict :=
  h.onOwnRecord p k fun _ hr => h.rewriteRecord hr rfl rfl (.inr rfl)

/-- A record leaves with a notice to its owner (R16, R17, R21). -/
theorem State.Coherent.expel (h : s.Whole strict) (k : Handle) (r : Record) (n : Notice) : (s.expel k r n).Whole strict :=
  ((h.retireNotified k).raise _).report r.domain k _

theorem State.Coherent.evictPort (h : s.Whole strict) (gone : List (Handle × Record)) (xs : List (PortId × Notice)) :
    ((s.retireSelected State.retireNotified gone).raise xs).Whole strict :=
  (h.retireSelected (fun _ k hu => hu.retireNotified k) gone).raise xs

theorem State.Coherent.restart (h : s.Whole strict) : (s.retireSelected State.retire s.live).emptyAgentBoxes.Whole strict :=
  (h.retireSelected (fun _ k hu => hu.retire k) s.live).aside

theorem execPortLoss_keeps (h : s.Whole strict) (x : AgentId) : ∃ t, execPortLoss x s = .next t ∧ t.Whole strict := by
  unfold execPortLoss
  dsimp only
  split
  · exact ⟨s, rfl, h⟩
  · next rest _ =>
    have hport : (s.setPort (AgentId.port x) { s.port (AgentId.port x) with sent := rest }).Whole strict := h.aside
    refine ⟨_, rfl, State.Coherent.raise (State.Coherent.aside (hport.retireSelected (fun _ k hu => hu.retire k) _)) _⟩

theorem execLeaseExpiry_keeps (h : s.Whole strict) (k : Handle) : ∃ t, execLeaseExpiry k s = .next t ∧ t.Whole strict := by
  unfold execLeaseExpiry
  split
  · exact ⟨s, rfl, h⟩
  · next r _ =>
    split
    · exact ⟨_, rfl, h.expel k r _⟩
    · exact ⟨s, rfl, h⟩

theorem execMillisecondBoundary_keeps (h : s.Whole strict) :
    ∃ t, execMillisecondBoundary s = .next t ∧ t.Whole strict := by
  refine ⟨_, rfl, .of_fewer (fun k q hq => ?_) h⟩
  rw [State.mapRecords_record] at hq
  obtain ⟨r, hr, rfl⟩ := Option.map_eq_some_iff.1 hq
  exact ⟨r, hr, rfl, rfl, rfl⟩

/-! ### The notice unit and the ports -/

theorem execNoticeArrival_keeps (h : s.Whole strict) (p : PortId) (n : Notice) :
    ∃ t, execNoticeArrival p n s = .next t ∧ t.Whole strict := by
  unfold execNoticeArrival
  split
  · exact ⟨s, rfl, h⟩
  · exact ⟨_, rfl, h.aside⟩

theorem State.Coherent.takeNotice (h : s.Whole strict) (p : PortId) : (s.takeNoticeRequest p).1.Whole strict := by
  obtain ⟨b, reply, -, htake⟩ := s.takeNoticeRequest_cases p
  rw [htake s rfl]
  exact h.aside

theorem State.Coherent.receive (h : s.Whole strict) (p : PortId) (f : Frame) : (s.receive p f).Whole strict := by
  rw [State.receive_eq]
  exact h.aside

theorem execTransaction_keeps (h : s.Whole strict) (p : PortId) (start : FirstBit) (f : Frame) :
    ∃ t, execTransaction p start f s = .next t ∧ t.Whole strict := by
  unfold execTransaction
  split
  · exact ⟨_, rfl, h.aside⟩
  · split
    · exact ⟨s, rfl, h⟩
    · dsimp only
      split
      · exact ⟨_, rfl, h.aside⟩
      · split
        · exact ⟨_, rfl, State.Coherent.receive h.aside p f⟩
        · exact ⟨_, rfl, State.Coherent.receive h.aside p f⟩
        · exact ⟨_, rfl, h.aside⟩

theorem execMalformedTransaction_keeps (h : s.Whole strict) (p : PortId) (start : FirstBit) (bits : Nat)
    (overlap : Option (List Nat)) : ∃ t, execMalformedTransaction p start bits overlap s = .next t ∧ t.Whole strict := by
  unfold execMalformedTransaction
  split
  · exact ⟨s, rfl, h⟩
  · split
    · exact ⟨_, rfl, h.aside⟩
    · split
      · exact ⟨s, rfl, h⟩
      · dsimp only
        split
        · exact ⟨_, rfl, h.aside⟩
        · exact ⟨_, rfl, h.aside⟩

theorem execPresentFall_keeps (h : s.Whole strict) (x : AgentId) :
    ∃ t, execPresentFall x s = .next t ∧ t.Whole strict := by
  unfold execPresentFall
  dsimp only
  split
  · exact ⟨_, rfl, h.aside⟩
  · exact ⟨s, rfl, h⟩

theorem execPresentRise_keeps (h : s.Whole strict) (x : AgentId) :
    ∃ t, execPresentRise x s = .next t ∧ t.Whole strict := by
  unfold execPresentRise
  dsimp only
  split
  · exact ⟨s, rfl, h⟩
  · exact ⟨_, rfl, h.aside⟩

/-! ### Reset and the passing of time -/

theorem execPinReset_keeps (inputs : InputLevels) : ∃ t, execPinReset inputs s = .next t ∧ t.Whole strict :=
  ⟨_, rfl, (State.ofReset_whole inputs).aside⟩

theorem tickTimer_eq_none {t : Option Nat} : tickTimer t = none ↔ t = none := Option.map_eq_none_iff

theorem Domain.paced_tick (c : Domain) : c.Paced c.tick :=
  ⟨_, _, _, _, rfl, tickTimer_eq_none, tickTimer_eq_none, tickTimer_eq_none⟩

theorem Rail.onward_tick (r : Rail) : r.Onward r.tick := by
  unfold Rail.tick
  split
  · next hout => exact ⟨_, rfl, .inr ⟨_, _, _, _, _, hout, rfl⟩⟩
  · exact .refl r

/-- A µs neither begins nor ends the wait for a reply. -/
theorem Rail.tick_awaiting {r : Rail} {code : Byte} {tries : Try} :
    r.tick.command = .outstanding code tries .awaitingReply ↔ r.command = .outstanding code tries .awaitingReply := by
  unfold Rail.tick
  split
  · next hout => rw [hout]; exact ⟨nofun, nofun⟩
  · rfl

theorem State.waiting_onward {w : RailId} (h : (s.rail w).Onward (t.rail w)) : t.waiting w = s.waiting w := by
  obtain ⟨command, hq, hcommand | ⟨_, _, _, _, _, hr, hcommand⟩⟩ := h
  · exact State.waiting_congr (by rw [hq, hcommand])
  · rw [State.waiting, State.waiting, hq, hr, hcommand]

theorem State.Coherent.tick (h : s.Whole strict) : s.tick.Whole strict := by
  refine ⟨h.toConsistent.congr rfl (fun e => ?_) (fun w => ?_) ?_ ?_ (fun e _ _ hf => hf) fun hq e he => ?_, ?_⟩
  · rw [State.tick_domain]; exact (s.domain e).paced_tick
  · rw [State.tick_rail]; exact (s.rail w).onward_tick
  · refine h.consent.congr rfl (by cases hr : s.park.request <;> simp [State.tick, hr]) fun e => ?_
    rw [State.tick_domain]
    rfl
  · refine h.transfer.congr rfl tickTimer_eq_none tickTimer_eq_none rfl fun w _ _ => ?_
    rw [State.tick_rail]
    exact Rail.tick_awaiting
  · exact (h.statuses hq e he).congr (by rw [State.tick_domain]; rfl) fun k q hk hd => ⟨q, hk, hd, rfl⟩
  · refine h.elected.congr rfl ?_ fun w => ?_
    · show (s.link.transfer.isSome || (s.link.resetHold.map _).isSome) = s.linkBusy
      rw [Option.isSome_map]
      rfl
    · exact State.waiting_onward (by rw [State.tick_rail]; exact (s.rail w).onward_tick)

end Sys2Proof.Machine
end

section
/-! PROOFS. The requests that write the operating point tables and the domain configuration keep the relations of a sound
state. -/

-- The proofs are elaborated one after another: side by side they would exceed the memory that the check allows.
set_option Elab.async false

namespace Sys2Proof.Machine

variable {strict : Prop} {s t : State} {d : DomainId}

/-! ### Another configuration of a domain on the same rail -/

theorem State.SetupFits.configured (h : s.SetupFits d) {c : Configuration} (hrail : c.rail = s.railOf d)
    (hrest : (s.point d c.rest).valid = true) (hsafe : (s.point d c.safe).valid = true)
    (hlimits : c.floorLimit ≤ c.ceilingLimit) (hfallback : s.code d c.safe ≤ (s.rail (s.railOf d)).fallback) :
    (s.setConfig d c).SetupFits d := by
  have hconfig : (s.setConfig d c).config d = c := State.setConfig_config_self ..
  have hv : (s.setConfig d c).railOf d = s.railOf d := by rw [State.railOf, hconfig, hrail]
  constructor <;> simp only [hconfig, hv, State.setConfig_point, State.setConfig_code, State.setConfig_rail]
  exacts [h.zero, hrest, hsafe, hlimits, h.inside, hfallback]

/-- The new configuration is read by the quiet timer alone. -/
theorem State.Coherent.setConfig (h : s.Whole strict) {c : Configuration} (hnew : (s.setConfig d c).SetupFits d)
    (hrail : c.rail = s.railOf d) :
    (s.setConfig d c).Coherent strict (fun _ => True) (· ≠ d) (fun _ => True) := by
  have hv : (s.setConfig d c).railOf d = s.railOf d := by rw [State.railOf, State.setConfig_config_self, hrail]
  have hrest : (s.setConfig d c).Coherent strict (· ≠ d) (· ≠ d) (fun _ => True) :=
    h.rewritten (fun e he => ?_) (fun _ _ => rfl) rfl rfl hnew hv rfl rfl rfl rfl
  · have hmap (e : DomainId) : (s.setConfig d c).railOf e = s.railOf e := by
      by_cases he : e = d
      · rw [he]; exact hv
      · rw [State.railOf, State.setConfig_config, if_neg he]; rfl
    refine { hrest with fits := fun e _ => ?_, parked := fun e _ => h.parked e trivial, statuses := fun hq e _ => ?_ }
    · exact (h.fits e trivial).reads (hmap e) rfl fun l _ => State.setConfig_point ..
    · exact h.statuses hq e trivial
  · rw [State.setConfig, State.setSetup_setup, if_neg he]

/-- Where park stays, it is read by nothing. -/
theorem State.Coherent.setConfig_whole (h : s.Whole strict) {c : Configuration} (hnew : (s.setConfig d c).SetupFits d)
    (hrail : c.rail = s.railOf d) (hpark : c.park = (s.config d).park) : (s.setConfig d c).Whole strict := by
  have hmost := h.setConfig hnew hrail
  refine { hmost with closed := fun e _ => ?_ }
  by_cases he : e = d
  · have hneed : (s.setConfig d c).needOf d = s.needOf d := by simp only [State.needOf, State.setConfig_domain, State.setConfig_code]
    rw [he, State.Closed, State.setConfig_config_self, hneed, hpark]
    exact h.closed d trivial
  · exact hmost.closed e he

/-! ### SET-LEVELS, SET-THROTTLE and SET-TIMES (R51 to R54) -/

theorem State.Coherent.setLevels (h : s.Whole strict) (d : DomainId) (rest safe low high : Level) :
    (s.setLevelsRequest d rest safe low high).1.Whole strict := by
  unfold State.setLevelsRequest
  split
  · exact h
  · next hvalid =>
    split
    · exact h
    · next hfallback =>
      simp only [Bool.or_eq_true, Bool.not_eq_true', decide_eq_true_eq, not_or, Bool.not_eq_false, gt_iff_lt, not_lt] at hvalid
      obtain ⟨⟨hrest, hsafe⟩, hlimits⟩ := hvalid
      exact (h.setConfig_whole ((h.setups d).configured (c := { s.config d with
        rest := rest, safe := safe, floorLimit := low, ceilingLimit := high }) rfl hrest hsafe hlimits
        (BitVec.not_lt.1 hfallback)) rfl rfl).reresolves d

theorem State.Coherent.followLine (h : s.Whole strict) (d : DomainId) (line : Option ThrottleLine) (level : Level) :
    (s.followLine d line level).Whole strict := by
  have hfits := h.setups d
  exact (h.setConfig_whole (hfits.configured (c := { s.config d with throttleLine := line, throttleLevel := level }) rfl
    hfits.rest hfits.safe hfits.limits hfits.fallback) rfl rfl).inputs (s.domain d).force _

theorem State.Coherent.setTimes (h : s.Whole strict) (d : DomainId) (lock gate : Byte) :
    (s.setConfig d { s.config d with lockCount := lock, gateCount := gate }).Whole strict :=
  h.setConfig_whole ((h.setups d).configured rfl (h.setups d).rest (h.setups d).safe (h.setups d).limits
    (h.setups d).fallback) rfl rfl

theorem State.Coherent.setForce (h : s.Whole strict) (d : DomainId) (level : Option Level) :
    (s.setForce d level).Whole strict := h.inputs level (s.domain d).throttled

/-! ### SET-POINT (R47 to R50) -/

/-- No level of an entry that is not in use is one of the domain's own (R47). -/
theorem State.not_inUse {l : Level} (h : s.inUse d l = false) : (s.domain d).current ≠ l ∧ (s.domain d).target ≠ l ∧
    (s.domain d).step ≠ some l ∧ (s.config d).rest ≠ l ∧ (s.config d).safe ≠ l := by
  simp only [State.inUse, Bool.or_eq_false_iff, decide_eq_false_iff_not] at h
  obtain ⟨⟨⟨⟨hc, ht⟩, hs⟩, hr⟩, hf⟩ := h
  exact ⟨hc, ht, hs, hr, hf⟩

theorem outsideWindow_eq_false {min max code : Byte} : outsideWindow min max code = false ↔ min ≤ code ∧ code ≤ max := by
  simp only [outsideWindow, Bool.or_eq_false_iff, decide_eq_false_iff_not, BitVec.not_lt]

theorem State.Coherent.setPoint (h : s.Whole strict) {l : Level} {x : Point} (huse : s.inUse d l = false)
    (hzero : l = 0 → x.valid = true) (hinside : x.valid = true → (s.rail (s.railOf d)).inside x.volt) :
    ((s.setPoint d l x).reresolve d).Whole strict := by
  obtain ⟨hcurrent, htarget, hstep, hrest, hsafe⟩ := State.not_inUse huse
  have hpoint (m : Level) : (s.setPoint d l x).point d m = if m = l then x else s.point d m := by
    rw [State.setPoint_point]
    simp only [true_and]
  have hkept {m : Level} (hm : m ≠ l) : (s.setPoint d l x).point d m = s.point d m := by rw [hpoint, if_neg hm]
  have hfits := h.setups d
  have hnew : (s.setPoint d l x).SetupFits d := by
    constructor
    case zero =>
      rw [hpoint]
      split
      · next h0 => exact hzero h0.symm
      · exact hfits.zero
    case rest => rw [State.setPoint_config, hkept hrest]; exact hfits.rest
    case safe => rw [State.setPoint_config, hkept hsafe]; exact hfits.safe
    case limits => rw [State.setPoint_config]; exact hfits.limits
    case inside =>
      intro m
      rw [State.setPoint_railOf, State.setPoint_rail, State.code, hpoint]
      split
      · exact hinside
      · exact hfits.inside m
    case fallback =>
      rw [State.setPoint_config, State.setPoint_railOf, State.setPoint_rail, State.code, hkept hsafe]
      exact hfits.fallback
  refine h.rewrites (h.rewritten (fun e he => ?_) (fun _ _ => rfl) rfl rfl hnew (State.setPoint_railOf ..) rfl rfl rfl rfl)
    ?_ rfl rfl
  · rw [State.setPoint, State.setSetup_setup, if_neg he]
  · refine (h.fits d trivial).reads (State.setPoint_railOf ..) rfl fun m hm => hkept ?_
    rintro rfl
    obtain hm | hm | hm := hm
    exacts [hcurrent hm, htarget hm, hstep hm]

theorem State.Coherent.setPointRequest (h : s.Whole strict) (d : DomainId) (l : Level) (valid clock volt : Byte) :
    (s.setPointRequest d l valid clock volt).1.Whole strict := by
  unfold State.setPointRequest
  dsimp only
  split
  · exact h
  next hvalid =>
  split
  · exact h
  next huse =>
  split
  · exact h
  next hzero =>
  split
  · exact h
  next hwindow =>
  refine h.setPoint (Bool.not_eq_true _ ▸ huse) (fun h0 => ?_) fun hone => ?_
  · have hne : valid ≠ 0 := fun hv => hzero ⟨h0, hv⟩
    simp only [decide_eq_true_eq]
    bv_omega
  · exact outsideWindow_eq_false.1 (Bool.not_eq_true _ ▸ fun hout => hwindow ⟨of_decide_eq_true hone, hout⟩)

/-! ### SET-PARK and SET-CONSENT (R122, R123) -/

theorem State.quietAfter_some (h : s.quietAfter d ≠ none) :
    (s.domain d).settled = true ∧ (s.config d).park = true ∧ (s.domain d).force = none := by
  have hquiet : s.quiet d = true := by
    by_contra hn
    exact h (if_neg hn)
  simp only [State.quiet, Bool.and_eq_true, decide_eq_true_eq] at hquiet
  exact ⟨hquiet.1.1.1, hquiet.1.1.2, hquiet.2⟩

theorem State.Coherent.parkStored (h : s.Whole strict) (d : DomainId) (enable window policy : Byte) :
    (s.parkStored d enable window policy).Coherent strict (fun _ => True) (· ≠ d) (fun _ => True) :=
  h.setConfig ((h.setups d).configured rfl (h.setups d).rest (h.setups d).safe (h.setups d).limits (h.setups d).fallback) rfl

theorem State.Coherent.parkSet (h : s.Whole strict) (d : DomainId) (enable window policy : Byte) :
    (s.parkSet d enable window policy).Whole strict := by
  have hstored := h.parkStored d enable window policy
  have hfits := hstored.fits d trivial
  unfold State.parkSet
  split
  · next hwithdrawn =>
    have hs : ((s.parkStored d enable window policy).domain d).state = .consent := hwithdrawn.1
    have hmoved := (hfits.runs (.inr (.inr hs))).withdraw (strict := strict) fun hq =>
      (hstored.statuses hq d trivial).noneHeld (by simp [hs]) (by simp [hs])
    exact (hmoved.isOpen hstored (fun _ _ => trivial) (fun _ he => he) (fun _ _ => trivial)
      hstored.consent.withdraw).finish_whole
  · rw [State.updateQuiet_eq]
    refine hstored.restoreDomain ?_ rfl rfl rfl rfl ?_
    · exact hfits.closing _ _ _
    · have hneed := State.needOf_setDomain (s := s.parkStored d enable window policy) (d := d)
        { s.domain d with quietTimer := (s.parkStored d enable window policy).quietAfter d } rfl rfl rfl rfl rfl
      rw [State.Closed, State.setDomain_domain_self]
      refine ⟨.trans ?_ hneed.symm, State.quietAfter_some⟩
      refine (h.closed d trivial).1.trans ?_
      simp only [State.needOf, State.parkStored, State.setConfig_domain, State.setConfig_code]

theorem State.Coherent.setConsent (h : s.Whole strict) (count : Byte) :
    State.Whole strict { s with park := { s.park with timeout := count } } :=
  ⟨h.toConsistent.congr rfl (fun _ => .refl _) (fun _ => .refl _) (h.consent.congr rfl rfl fun _ => .rfl)
    (h.transfer.congr rfl .rfl .rfl rfl fun _ _ _ => .rfl) (fun _ _ _ hf => hf) h.statuses,
    h.elected.congr rfl rfl fun _ => rfl⟩

end Sys2Proof.Machine
end

section
/-! PROOFS. MAP and SET-RAIL, which write what a domain and its rail owe each other, keep the relations of a sound state. -/

-- The proofs are elaborated one after another: side by side they would exceed the memory that the check allows.
set_option Elab.async false

namespace Sys2Proof.Machine

variable {strict : Prop} {s t : State} {d : DomainId} {v : RailId}

/-! ### MAP (R55 to R57) -/

/-- A rail that is not below a code, nor going there, assures it (R55). -/
theorem Rail.le_assured_of_not_below {r : Rail} {code : Byte} (h : r.belowCode code = false) : code ≤ r.assured := by
  rw [Rail.belowCode, Bool.or_eq_false_iff] at h
  obtain ⟨hconfirmed, hout⟩ := h
  have hle := BitVec.not_lt.1 (of_decide_eq_false hconfirmed)
  cases hc : r.command with
  | none => rw [Rail.assured, hc]; exact hle
  | queued c => rw [Rail.assured, hc]; exact hle
  | outstanding c tries phase =>
    rw [hc] at hout
    rw [Rail.assured_of_outstanding hc]
    exact le_lowerCode.2 ⟨hle, BitVec.not_lt.1 (of_decide_eq_false hout)⟩

/-- Every valid entry of a domain lies in a window. -/
theorem State.entries_inside {min max : Byte} (h : s.entryOutside d min max = false) {l : Level}
    (hl : (s.point d l).valid = true) : min ≤ s.code d l ∧ s.code d l ≤ max := by
  have hnone := List.any_eq_false.1 h l (List.mem_finRange l)
  rw [hl, Bool.true_and, Bool.not_eq_true] at hnone
  exact outsideWindow_eq_false.1 hnone

/-- A domain at rest at L0 is mapped to a rail that covers it; the two rails have yet to re-evaluate (R56). -/
theorem State.Coherent.remapped (h : s.Whole strict) (hsteady : (s.domain d).state = .steady)
    (hcurrent : (s.domain d).current = 0) (hfree : (s.rail v).faulted = false)
    (hinside : ∀ l, (s.point d l).valid = true → (s.rail v).inside (s.code d l))
    (hsafe : s.code d (s.config d).safe ≤ (s.rail v).fallback) (hcovered : s.code d 0 ≤ s.assured v) :
    (s.setConfig d { s.config d with rail := v }).Coherent strict (fun _ => True) (fun _ => True)
      fun w => w ≠ s.railOf d ∧ w ≠ v := by
  have hold := h.fits d trivial
  have hruns := hold.runs (.inl hsteady)
  have hconfig : (s.setConfig d { s.config d with rail := v }).config d = { s.config d with rail := v } :=
    State.setConfig_config_self ..
  have hv : (s.setConfig d { s.config d with rail := v }).railOf d = v := congrArg Configuration.rail hconfig
  have hother {e : DomainId} (he : e ≠ d) : (s.setConfig d { s.config d with rail := v }).setup e = s.setup e := by
    rw [State.setConfig, State.setSetup_setup, if_neg he]
  have hmap {e : DomainId} (he : e ≠ d) : (s.setConfig d { s.config d with rail := v }).railOf e = s.railOf e :=
    congrArg (fun x : Setup => x.config.rail) (hother he)
  refine ⟨?_, h.elected.congr rfl rfl fun _ => rfl⟩
  constructor
  case setups =>
    intro e
    by_cases he : e = d
    · rw [he]
      constructor
      case zero => rw [State.setConfig_point]; exact (h.setups d).zero
      case rest => rw [State.setConfig_point, hconfig]; exact (h.setups d).rest
      case safe => rw [State.setConfig_point, hconfig]; exact (h.setups d).safe
      case limits => rw [hconfig]; exact (h.setups d).limits
      case inside => intro l; rw [State.setConfig_point, State.setConfig_code, hv]; exact hinside l
      case fallback => rw [State.setConfig_code, hv, hconfig]; exact hsafe
    · exact (h.setups e).reads (hother he) rfl
  case fits =>
    intro e _
    by_cases he : e = d
    · rw [he]
      have hnone (l : Level) (hl : l ∈ (s.domain d).step) : False := nomatch hruns.idle.step.symm.trans hl
      refine .of_free (by rw [hv]; exact hfree) (by rw [State.setConfig_point]; exact hold.current)
        (by rw [State.setConfig_point]; exact hold.target) (fun l hl => (hnone l hl).elim) hold.moves
        (fun hs => nomatch hsteady.symm.trans hs) (fun hs => nomatch hsteady.symm.trans hs)
        (fun _ => ⟨?_, fun l hl => (hnone l hl).elim⟩) (fun _ l hl => (hnone l hl).elim)
        fun hs => nomatch hsteady.symm.trans hs
      rw [State.setConfig_code, State.setConfig_domain, hcurrent, hv]
      exact hcovered
    · exact (h.fits e trivial).reads (hmap he) rfl fun l _ => State.setConfig_point ..
  case parked => exact fun e _ => h.parked e trivial
  case statuses => exact fun hq e _ => h.statuses hq e trivial
  case rails => exact h.rails
  case consent => exact h.consent
  case transfer => exact h.transfer.congr rfl .rfl .rfl rfl fun _ _ _ => .rfl
  case closed =>
    intro e _
    have hneed : (s.setConfig d { s.config d with rail := v }).needOf e = s.needOf e := by
      simp only [State.needOf, State.setConfig_domain, State.setConfig_code]
    by_cases he : e = d
    · rw [he] at hneed ⊢
      rw [State.Closed, hneed, hconfig]
      exact h.closed d trivial
    · exact (h.closed e trivial).reads (hother he) rfl
  case followed =>
    intro w hw
    refine (h.followed w trivial).reads rfl (fun e => ?_) fun _ _ => ⟨rfl, rfl⟩
    by_cases he : e = d
    · rw [he, hv]
      exact iff_of_false (Ne.symm hw.2) (Ne.symm hw.1)
    · rw [hmap he]

/-- Both rails re-evaluate, in either order (R56, R57). -/
theorem State.Coherent.reevaluateBoth {old new : RailId}
    (h : s.Coherent strict (fun _ => True) (fun _ => True) fun w => w ≠ old ∧ w ≠ new) :
    (s.reevaluateBoth old new).Whole strict := by
  have hfirst : ((s.reevaluate old).reevaluate new).Whole strict :=
    ((h.reevaluate old).reevaluate new).mono (fun _ => id) (fun _ => id) fun w _ => by tauto
  have hother : ((s.reevaluate new).reevaluate old).Whole strict :=
    ((h.reevaluate new).reevaluate old).mono (fun _ => id) (fun _ => id) fun w _ => by tauto
  unfold State.reevaluateBoth
  dsimp only
  split
  · exact hfirst
  · split
    · exact hfirst.aside
    · exact hother.aside

theorem State.Coherent.mapRequest (h : s.Whole strict) (d : DomainId) (v : RailId) :
    (s.mapRequest d v).1.Whole strict := by
  unfold State.mapRequest
  dsimp only
  split
  · exact h
  split
  · exact h
  next hrest =>
  split
  · exact h
  next hheld =>
  split
  · exact h
  next hshut =>
  split
  · exact h
  next hwindow =>
  split
  · exact h
  next hbelow =>
  simp only [ne_eq, not_or, not_not] at hrest hheld hwindow
  obtain ⟨hsteady, hcurrent, -⟩ := hrest
  obtain ⟨hinside, hsafe⟩ := hwindow
  rw [Bool.not_eq_true] at hinside hbelow
  exact (h.remapped hsteady hcurrent (Rail.not_faulted.2 ⟨hheld.1, hheld.2, hshut⟩)
    (fun l hl => State.entries_inside hinside hl) (BitVec.not_lt.1 hsafe)
    (Rail.le_assured_of_not_below hbelow)).reevaluateBoth

/-! ### SET-RAIL (R101, R102) -/

/-- The rail without a queued command, which a re-evaluation outside fault handling does not read (R86). -/
def Rail.unqueued (r : Rail) : Rail :=
  match r.command with
  | .queued _ => { r with command := .none }
  | _ => r

theorem Rail.unqueued_outstanding {r : Rail} {code : Byte} {tries : Try} {phase : CommandPhase} :
    r.unqueued.command = .outstanding code tries phase ↔ r.command = .outstanding code tries phase := by
  unfold Rail.unqueued
  split
  · next hc => rw [hc]; exact ⟨nofun, nofun⟩
  · rfl

theorem Rail.unqueued_eq (r : Rail) : r.unqueued = { r with command := r.unqueued.command } := by
  unfold Rail.unqueued
  split <;> rfl

theorem Rail.unqueued_code {r : Rail} {code : Byte} (h : code ∈ r.unqueued.command.code?) :
    ∃ tries phase, r.command = .outstanding code tries phase := by
  unfold Rail.unqueued at h
  split at h
  · cases h
  · next hnot =>
    cases hc : r.command with
    | none => rw [hc] at h; cases h
    | queued c => exact absurd hc (hnot c)
    | outstanding c tries phase =>
      rw [hc] at h
      exact ⟨tries, phase, by rw [← Option.some.inj h]⟩

theorem Rail.unqueued_assured (r : Rail) : r.unqueued.assured = r.assured := by
  unfold Rail.unqueued
  split
  · next hc => rw [Rail.assured, Rail.assured, hc]
  · rfl

theorem Rail.commandRule_unqueued (r : Rail) (required : Byte) :
    Rail.commandRule { r.unqueued with required := required } = Rail.commandRule { r with required := required } := by
  cases hc : r.command <;> simp [Rail.unqueued, Rail.commandRule, hc]

theorem State.reevaluate_of_free (hfree : (s.rail v).faulted = false) : s.reevaluate v =
    (s.setRail v ((s.rail v).reevaluated (s.requiredCode v) (s.allParked v))).chooseRail := by
  rw [Rail.reevaluated_of_free hfree]
  exact if_neg (Bool.eq_false_iff.1 hfree)

theorem State.reevaluate_unqueued (hfree : (s.rail v).faulted = false) :
    (s.setRail v (s.rail v).unqueued).reevaluate v = s.reevaluate v := by
  have hown : (s.setRail v (s.rail v).unqueued).rail v = (s.rail v).unqueued := by rw [State.setRail_rail, if_pos rfl]
  have hrequired : (s.setRail v (s.rail v).unqueued).requiredCode v = s.requiredCode v :=
    State.requiredCode_congr rfl (fun _ _ => ⟨rfl, .rfl⟩) (by rw [hown, Rail.unqueued_eq]; exact ⟨rfl, rfl, rfl⟩)
  have hfree' : (s.rail v).unqueued.faulted = false := by rw [Rail.unqueued_eq]; exact hfree
  have hparked : (s.setRail v (s.rail v).unqueued).allParked v = s.allParked v := rfl
  rw [State.reevaluate_of_free hfree, State.reevaluate_of_free (by rw [hown]; exact hfree'), hown, hrequired, hparked,
    State.setRail_setRail, Rail.reevaluated_of_free hfree, Rail.reevaluated_of_free hfree', Rail.commandRule_unqueued]

/-- Outside fault handling a domain reads of its rail only the assured code. -/
theorem State.Fits.other_rail {c : Domain} (h : s.Fits d c) (hfree : (s.rail (s.railOf d)).faulted = false)
    (hsetups : t.setups = s.setups) (hfree' : (t.rail (s.railOf d)).faulted = false)
    (hassured : t.assured (s.railOf d) = s.assured (s.railOf d)) : t.Fits d c := by
  have hp := State.point_congr hsetups d
  have hc := State.code_congr hsetups d
  have hv := State.railOf_congr hsetups d
  obtain ⟨-, -, hshut⟩ := Rail.not_faulted.1 hfree
  refine .of_free (by rw [hv]; exact hfree') (by rw [hp]; exact h.current) (by rw [hp]; exact h.target)
    (fun l hl => by rw [hp]; exact h.step l hl) h.moves (h.frozen_by_clock hfree) (fun hs => hshut (h.shut.2 hs)) ?_ ?_ ?_ <;>
    simp only [hv, hc, hassured]
  exacts [h.running hfree, h.clock hfree, h.raising hfree]

/-- Settings that fit are written; the rail has yet to re-evaluate, and its queued command is not read (R102). -/
theorem State.Coherent.railSet (h : s.Whole strict) (hfree : (s.rail v).faulted = false) {q : Rail}
    (hq : { s.rail v with min := q.min, max := q.max, fallback := q.fallback, retention := q.retention,
                          stepTime := q.stepTime } = q)
    (hwindow : q.min ≤ q.max) (htime : q.stepTime ≠ 0) (hfallback : q.inside q.fallback)
    (hretention : q.inside q.retention)
    (hinside : ∀ e, s.railOf e = v → ∀ l, (s.point e l).valid = true → q.inside (s.code e l))
    (hsafe : ∀ e, s.railOf e = v → s.code e (s.config e).safe ≤ q.fallback)
    (hout : ∀ code tries phase, q.command = .outstanding code tries phase → q.inside code) :
    ((s.setRail v q).reevaluate v).Whole strict := by
  have hcommand : q.command = (s.rail v).command := (congrArg Rail.command hq).symm
  have hconfirmed : q.confirmed = (s.rail v).confirmed := (congrArg Rail.confirmed hq).symm
  have hcause : q.cause = (s.rail v).cause := (congrArg Rail.cause hq).symm
  have hqfree : q.faulted = false := by
    rw [Rail.not_faulted, show q.state = (s.rail v).state from (congrArg Rail.state hq).symm]
    exact Rail.not_faulted.1 hfree
  obtain ⟨hnotfallback, hnotheld, hnotshut⟩ := Rail.not_faulted.1 hqfree
  have hassured : q.unqueued.assured = (s.rail v).assured := by
    rw [Rail.unqueued_assured, Rail.assured, hcommand, hconfirmed]
    rfl
  have hqown : (s.setRail v q).rail v = q := by rw [State.setRail_rail, if_pos rfl]
  have hown : (s.setRail v q.unqueued).rail v = q.unqueued := by rw [State.setRail_rail, if_pos rfl]
  have hother (w : RailId) (hw : w ≠ v) : (s.setRail v q.unqueued).rail w = s.rail w := by
    rw [State.setRail_rail, if_neg hw]
  have hufree : ((s.setRail v q.unqueued).rail v).faulted = false := by rw [hown, Rail.unqueued_eq]; exact hqfree
  have hfits : q.unqueued.Fits := by
    constructor
    case command =>
      intro code hc
      obtain ⟨tries, phase, hc⟩ := Rail.unqueued_code hc
      rw [Rail.unqueued_eq]
      exact hout code tries phase hc
    case outstanding =>
      intro _ code tries phase hc
      have hne := (h.rails v).outstanding hfree code tries phase (hcommand ▸ Rail.unqueued_outstanding.1 hc)
      rw [Rail.unqueued_eq]
      exact hconfirmed ▸ hne
    all_goals rw [Rail.unqueued_eq]
    case window => exact hwindow
    case fallback => exact hfallback
    case retention => exact hretention
    case stepTime => exact htime
    case cause =>
      refine iff_of_false (fun hne => ?_) (Bool.eq_false_iff.1 hqfree)
      exact Bool.eq_false_iff.1 hfree ((h.rails v).cause.1 (hcause ▸ hne))
    case held => exact fun hs => absurd hs hnotheld
    case shut => exact fun hs => absurd hs hnotshut
    case falling => exact fun hs => absurd hs hnotfallback
  have hrest : (s.setRail v q.unqueued).Consistent strict (fun _ => True) (fun _ => True) fun w => w ≠ v ∧ True := by
    refine h.toConsistent.withRail rfl rfl rfl rfl hother (by rw [hown]; exact hfits) (fun e he => ?_) (fun e he _ => ?_)
      (h.transfer.congr rfl .rfl .rfl rfl fun w code tries => ?_)
    · have hold := h.setups e
      have hv : (s.setRail v q.unqueued).railOf e = v := he
      refine ⟨hold.zero, hold.rest, hold.safe, hold.limits, fun l hl => ?_, ?_⟩ <;> rw [hv, hown, Rail.unqueued_eq]
      · exact hinside e he l hl
      · exact hsafe e he
    · refine (h.fits e trivial).other_rail (by rw [he]; exact hfree) rfl (by rw [he]; exact hufree) ?_
      rw [he, State.assured, hown, hassured]
      rfl
    · by_cases hw : w = v
      · rw [hw, hown, Rail.unqueued_outstanding, hcommand]
      · rw [hother w hw]
  rw [← State.reevaluate_unqueued (by rw [hqown]; exact hqfree), hqown, State.setRail_setRail]
  exact (hrest.reevaluate_coherent hufree).mono (fun _ => id) (fun _ => id) fun w _ => (em (w = v)).imp_right (⟨·, trivial⟩)

/-- The checks of SET-RAIL (Table 5-6). -/
theorem State.Coherent.setRailRequest (h : s.Whole strict) (v : RailId) (min max fallback retention stepTime : Byte) :
    (s.setRailRequest v min max fallback retention stepTime).1.Whole strict := by
  unfold State.setRailRequest
  dsimp only
  split
  · exact h
  next harguments =>
  split
  · exact h
  next hheld =>
  split
  · exact h
  next hshut =>
  split
  · exact h
  next hsettings =>
  split
  · exact h
  next hentries =>
  split
  · exact h
  next hsafe =>
  split
  · exact h
  next hout =>
  simp only [gt_iff_lt, not_or, Bool.not_eq_true, List.any_eq_false, decide_eq_true_eq, State.mem_mapped] at *
  obtain ⟨hwindow, htime⟩ := harguments
  obtain ⟨hfallback, hretention⟩ := hsettings
  refine h.railSet (Rail.not_faulted.2 ⟨hheld.1, hheld.2, hshut⟩) rfl (BitVec.not_lt.1 hwindow) htime
    (outsideWindow_eq_false.1 hfallback) (outsideWindow_eq_false.1 hretention)
    (fun e he l hl => State.entries_inside (hentries e he) hl) (fun e he => BitVec.not_lt.1 (hsafe e he))
    fun code tries phase hc => ?_
  rw [Rail.outstandingOutside, hc] at hout
  exact outsideWindow_eq_false.1 hout

end Sys2Proof.Machine
end

section
/-! PROOFS. CLEAR-FAULT keeps the relations of a sound state: each released domain fits its state again. -/

-- The proofs are elaborated one after another: side by side they would exceed the memory that the check allows.
set_option Elab.async false

namespace Sys2Proof.Machine

variable {strict : Prop} {s t : State} {d : DomainId} {v : RailId}

/-! ### The release of one domain (R134, R135) -/

/-- A FROZEN domain whose rail is outside fault handling: without its cause the controller is idle, and its clock, where
it runs, is covered. -/
structure State.Releasable (s : State) (d : DomainId) : Prop where
  state : (s.domain d).state = .frozen
  settled : (s.domain d).settled = false
  step : (s.domain d).step = none
  lock : (s.domain d).lockTimer = none
  gate : (s.domain d).gateTimer = none
  current : (s.point d (s.domain d).current).valid = true
  zero : (s.point d 0).valid = true
  free : (s.rail (s.railOf d)).faulted = false
  covered : (s.domain d).gated = false → s.code d (s.domain d).current ≤ s.assured (s.railOf d)

theorem State.Releasable.congr (h : s.Releasable d) (hsetups : t.setups = s.setups) (hdomain : t.domain d = s.domain d)
    (hrail : t.rail (s.railOf d) = s.rail (s.railOf d)) : t.Releasable d := by
  have hv := State.railOf_congr hsetups d
  have hp := State.point_congr hsetups d
  constructor <;> simp only [hdomain, hv, hp, hrail, State.code_congr hsetups d, State.assured]
  exacts [h.state, h.settled, h.step, h.lock, h.gate, h.current, h.zero, h.free, h.covered]

/-- After a release no record on the domain is HELD. -/
theorem State.unfrozen_noneHeld (s : State) (d : DomainId) : (s.unfrozen d).NoneHeld d :=
  State.forall_rewritten (P := fun r => r.status ≠ .held) (s.unfrozen_record d) fun _ r _ _ => r.unhold_status_ne

theorem State.Releasable.ready (h : s.Releasable d) : (s.unfrozen d).Ready d ((s.unfrozen d).domain d) := by
  rw [State.unfrozen_domain]
  exact State.Ready.congr ⟨⟨h.step, h.lock, h.gate, rfl⟩, h.current, s.resolution_valid d h.zero, h.free⟩ (.unfrozen s d)

theorem State.Releasable.runs (h : s.Releasable d) (hgated : (s.domain d).gated = false) :
    (s.thawed d).Runs d ((s.thawed d).domain d) := by
  have hmove : s.DomainMove d (s.thawed d) := (State.DomainMove.unfrozen s d).trans (.setDomain _ d rfl rfl)
  rw [State.thawed_domain]
  exact State.Runs.congr ⟨⟨⟨h.step, h.lock, h.gate, rfl⟩, h.current, s.resolution_valid d h.zero, h.free⟩, hgated,
    h.covered hgated⟩ hmove

/-- A released domain plans, wakes or parks, and so fits its state; the consent channel is not concerned. -/
theorem State.Releasable.released (h : s.Releasable d) : s.Moved strict d (s.released d) ∧
    (s.released d).park = s.park ∧ ((s.released d).domain d).state ≠ .consent := by
  have hmove := State.DomainMove.unfrozen s d
  cases hgated : (s.domain d).gated with
  | false =>
    have hthaw : s.DomainMove d (s.thawed d) := hmove.trans (.setDomain _ d rfl rfl)
    rw [State.released_runs hgated]
    exact ⟨hthaw.moved ((h.runs hgated).plan fun _ => (s.unfrozen_noneHeld d).congr fun _ => rfl), State.plan_park _ d,
      State.plan_not_consent _ d⟩
  | true =>
    have hsettled : ((s.unfrozen d).domain d).settled = false := by rw [State.unfrozen_domain]; exact h.settled
    rw [State.released_gated hgated]
    split
    · refine ⟨hmove.moved (h.ready.beginWake hsettled fun _ => s.unfrozen_noneHeld d), State.beginWake_park _ d, ?_⟩
      rw [State.beginWake_domain]
      split <;> nofun
    · next hwanted =>
      rw [Bool.or_eq_true, not_or, Bool.not_eq_true] at hwanted
      refine ⟨hmove.moved (h.ready.enterParked hsettled (by rw [hmove.frame.wanted]; exact hwanted.1) fun _ =>
        s.unfrozen_noneHeld d), State.enterParked_park _ d, ?_⟩
      rw [State.enterParked_domain]
      nofun

section Release
variable {fit closed : DomainId → Prop} {followed : RailId → Prop}

/-- A release adds its domain to those that fit; its rail has yet to take the need. -/
theorem State.Coherent.releaseDomain (h : s.Coherent strict fit closed followed) (hd : s.Releasable d) :
    (s.releaseDomain d).Coherent strict (fun e => e = d ∨ fit e) (fun e => e = d ∨ closed e)
      fun w => w ≠ s.railOf d ∧ followed w := by
  obtain ⟨hmoved, hpark, hstate⟩ := hd.released (strict := strict)
  have hconsent : (s.released d).ConsentSound := h.consent.unmoved hmoved.move.frame hpark
    (iff_of_false hstate (by rw [hd.state]; nofun))
  have hreleased := h.move (fit' := fun e => e = d ∨ fit e) (closed' := fun e => e ≠ d ∧ closed e)
    (followed' := fun w => w ≠ s.railOf d ∧ followed w) hmoved.move hconsent (fun e he hne => he.resolve_left hne)
    (fun _ => id) (fun _ => id) fun _ => ⟨hmoved.fits, hmoved.parked, hmoved.statuses⟩
  have hv : (s.released d).railOf d = s.railOf d := hmoved.move.frame.railOf d
  refine (hreleased.closeDomain d (.inl rfl)).mono (fun _ => id) (fun e he => ?_) fun w hw => ⟨by rw [hv]; exact hw.1, hw⟩
  by_cases hed : e = d
  · exact .inl hed
  · exact .inr ⟨hed, he.resolve_left hed⟩

/-- The domains of rail v are released one after another. -/
theorem State.Coherent.releaseAll (es : List DomainId) (hnodup : es.Nodup)
    (h : s.Coherent strict fit (fun _ => True) (· ≠ v)) (hes : ∀ e ∈ es, s.Releasable e ∧ s.railOf e = v) :
    (es.foldl State.releaseDomain s).Coherent strict (fun e => e ∈ es ∨ fit e) (fun _ => True) (· ≠ v) := by
  induction es generalizing s fit with
  | nil => exact h.mono (fun _ he => he.resolve_left List.not_mem_nil) (fun _ => id) fun _ => id
  | cons d es ih =>
    obtain ⟨hd, hnodup⟩ := List.nodup_cons.1 hnodup
    obtain ⟨hdrel, hdv⟩ := hes d List.mem_cons_self
    have hmove := State.DomainMove.releaseDomain s d
    have hfirst := (h.releaseDomain hdrel).mono (fit' := fun e => e = d ∨ fit e) (closed' := fun _ => True)
      (followed' := (· ≠ v)) (fun _ => id) (fun _ _ => .inr trivial) fun w hw => ⟨by rw [hdv]; exact hw, hw⟩
    refine (ih hnodup hfirst fun e he => ?_).mono (fun e he => ?_) (fun _ => id) fun _ => id
    · obtain ⟨hrel, hv⟩ := hes e (List.mem_cons_of_mem d he)
      have hed : e ≠ d := fun hed => hd (hed ▸ he)
      exact ⟨hrel.congr hmove.frame.setups (hmove.frame.domains e hed) (hmove.rail _), by rw [hmove.frame.railOf, hv]⟩
    · obtain he | he := he
      · obtain he | he := List.mem_cons.1 he
        · exact .inr (.inl he)
        · exact .inl he
      · exact .inr (.inr he)

end Release

/-! ### CLEAR-FAULT (R132 to R135) -/

/-- The clock of a domain that freezes by a step runs (R126). -/
theorem Domain.MovesSound.freezing_runs {c : Domain} (h : c.MovesSound) (hs : c.state = .frozen) (hstep : c.step ≠ none) :
    c.gated = false := by
  obtain hs' | hs' | ⟨-, hgated⟩ := h.step_states hstep
  · exact nomatch hs.symm.trans hs'
  · exact nomatch hs.symm.trans hs'
  · exact hgated

/-- A FROZEN domain without a step may be released once its rail is outside fault handling and covers it. -/
theorem State.Fits.releasable (h : s.Fits d (s.domain d)) (hsetup : s.SetupFits d) (hs : (s.domain d).state = .frozen)
    (hstep : (s.domain d).step = none) (hfree : (t.rail (s.railOf d)).faulted = false)
    (hcovered : (s.domain d).gated = false → s.code d (s.domain d).current ≤ t.assured (s.railOf d))
    (hsetups : t.setups = s.setups := by rfl) (hdomain : t.domain d = s.domain d := by rfl) : t.Releasable d := by
  have hv := State.railOf_congr hsetups d
  have hp := State.point_congr hsetups d
  have hlock : (s.domain d).lockTimer = none := by_contra fun hne => (h.moves.lockTimer_states hne).1 hstep
  have hgate : (s.domain d).gateTimer = none := by
    obtain ⟨-, -, -, -, -, -, -, hgate, -, -, -⟩ := h.moves
    by_contra hne
    obtain hg | hg := hgate.1 hne
    all_goals exact nomatch hs.symm.trans hg
  constructor <;> simp only [hdomain, hv, hp, State.code_congr hsetups d]
  exacts [hs, h.moves.not_settled (by rw [hs]; nofun), hstep, hlock, hgate, h.current, hsetup.zero, hfree, hcovered]

theorem State.Coherent.clearDomainRequest (h : s.Whole strict) (d : DomainId) :
    (s.clearDomainRequest d).1.Whole strict := by
  unfold State.clearDomainRequest
  split
  · next hclear =>
    obtain ⟨hs, hcause, hfree⟩ := hclear
    have hfits := h.fits d trivial
    obtain ⟨-, -, -, -, -, -, -, -, -, -, hclock⟩ := hfits.moves
    have hgated := hclock hcause
    have hstep : (s.domain d).step = none :=
      by_contra fun hne => nomatch hgated.symm.trans (hfits.moves.freezing_runs hs hne)
    have hreleased := h.releaseDomain (hfits.releasable (t := s) (h.setups d) hs hstep (by simpa using hfree)
      fun hg => nomatch hgated.symm.trans hg)
    exact (hreleased.reevaluate (s.railOf d)).mono (fun _ _ => .inr trivial) (fun _ _ => .inr trivial) fun w _ =>
      (em (w = s.railOf d)).imp_right (⟨·, trivial⟩)
  · split
    · exact h
    · exact h

/-- A domain under a rail in HELD is frozen in place and within the confirmed code (R129, R130). -/
theorem State.Coherent.heldReleasable (h : s.Whole strict) (hheld : (s.rail v).state = .held) (hv : s.railOf d = v)
    (choices : Nat) : State.Releasable { s.unfaulted v with choices := choices } d := by
  have hfits := h.fits d trivial
  have hown : (s.unfaulted v).rail v = { s.rail v with state := .steady, cause := .none } := State.setRail_rail_self ..
  obtain ⟨hconfirmed, hnone⟩ := (h.rails v).held hheld
  obtain ⟨hs, -⟩ := hfits.held.1 (.inr (by rw [hv]; exact hheld))
  have hplace := hfits.inPlace (.inl (by rw [hv]; exact hheld))
  have hstep : (s.domain d).step = none := by
    by_contra hne
    exact hne (by simpa [Domain.inPlace, hs, hfits.moves.freezing_runs hs hne] using hplace)
  have hassured : (s.unfaulted v).assured v = (s.rail v).fallback := by
    rw [State.assured, hown, ← hconfirmed]
    exact Rail.assured_of_not_outstanding fun _ _ _ hout => nomatch hnone.symm.trans hout
  have hreleasable : (s.unfaulted v).Releasable d := by
    refine hfits.releasable (h.setups d) hs hstep (by rw [hv, hown]; rfl) fun hg => ?_
    have hcode := hfits.frozen hs hg
    rw [hstep] at hcode
    rw [hv, hassured]
    rw [hv] at hcode
    exact hcode
  exact hreleasable.congr rfl rfl rfl

/-- The rail without its fault: its domains have yet to fit it, and it to follow them (R133). -/
theorem State.Coherent.unfaulted (h : s.Whole strict) (hheld : (s.rail v).state = .held) (choices : Nat) :
    State.Coherent strict (s.railOf · ≠ v) (fun _ => True) (· ≠ v) { s.unfaulted v with choices := choices } := by
  have hown : (s.unfaulted v).rail v = { s.rail v with state := .steady, cause := .none } := State.setRail_rail_self ..
  have hother (w : RailId) (hw : w ≠ v) : (s.unfaulted v).rail w = s.rail w := by
    rw [State.unfaulted, State.setRail_rail, if_neg hw]
  have hcommand (w : RailId) : ((s.unfaulted v).rail w).command = (s.rail w).command := by
    by_cases hw : w = v
    · rw [hw, hown]
    · rw [hother w hw]
  have hrail := h.rails v
  obtain ⟨-, hnone⟩ := hrail.held hheld
  have hsome : (s.unfaulted v).Consistent strict (s.railOf · ≠ v) (fun _ => True) fun w => w ≠ v ∧ True := by
    refine (h.toConsistent.mono (fun _ _ => trivial) (fun _ => id) fun _ => id).withRail rfl rfl rfl rfl hother ?_
      (State.SetupFits.keepsLimits h.setups rfl (by rw [hown]) (by rw [hown]) (by rw [hown]))
      (fun e he hne => absurd he hne) (h.transfer.congr rfl .rfl .rfl rfl fun w _ _ => by rw [hcommand])
    rw [hown]
    refine ⟨hrail.window, hrail.fallback, hrail.retention, hrail.stepTime, ?_, nofun, nofun, nofun, hrail.command,
      fun _ _ _ _ hout => nomatch hnone.symm.trans hout⟩
    exact ⟨fun hc => absurd rfl hc, nofun⟩
  have hunfaulted : (s.unfaulted v).Coherent strict (s.railOf · ≠ v) (fun _ => True) (· ≠ v) :=
    ⟨hsome.mono (fun _ => id) (fun _ => id) fun w hw => ⟨hw, trivial⟩,
      h.elected.congr rfl rfl fun w => State.waiting_congr (hcommand w)⟩
  exact hunfaulted.aside

theorem State.Coherent.clearRailRequest (h : s.Whole strict) (v : RailId) : (s.clearRailRequest v).1.Whole strict := by
  unfold State.clearRailRequest
  split
  case h_1 hheld =>
    obtain ⟨es, choices, hperm, hclear⟩ := s.clearRail_eq v fun d hd =>
      ((h.fits d trivial).held.1 (.inr (by rw [hd]; exact hheld))).1
    have hmem (e : DomainId) : e ∈ es ↔ s.railOf e = v := hperm.mem_iff.trans State.mem_mapped
    have hreleased := (h.unfaulted hheld choices).releaseAll es (hperm.nodup_iff.2 (s.mapped_nodup v)) fun e he =>
      ⟨h.heldReleasable hheld ((hmem e).1 he) choices, (hmem e).1 he⟩
    rw [hclear]
    exact (hreleased.reevaluate v).mono (fun e _ => (em (s.railOf e = v)).imp_left (hmem e).2) (fun _ => id) fun w _ =>
      em (w = v)
  all_goals exact h

end Sys2Proof.Machine
end

section
/-! PROOFS. Every row of the table, and so every step, keeps the relations of a sound state. -/

-- The proofs are elaborated one after another: side by side they would exceed the memory that the check allows.
set_option Elab.async false

namespace Sys2Proof.Machine

variable {strict : Prop} {s t : State}

/-! ### Requests -/

/-- The block of a request keeps the relations between the blocks. -/
def KeepsWhole (strict : Prop) (body : State → State × Reply) : Prop :=
  ∀ t : State, t.Whole strict → (body t).1.Whole strict

theorem KeepsWhole.same {reply : State → Reply} : KeepsWhole strict fun t => (t, reply t) := fun _ ht => ht

theorem KeepsWhole.write {f : State → State} {reply : State → Reply}
    (hf : ∀ t : State, t.Whole strict → (f t).Whole strict) : KeepsWhole strict fun t => (f t, reply t) := hf

theorem KeepsWhole.ite {c : State → Prop} [∀ t, Decidable (c t)] {a b : State → State × Reply}
    (ha : KeepsWhole strict a) (hb : KeepsWhole strict b) : KeepsWhole strict fun t => if c t then a t else b t := by
  intro t ht
  dsimp only
  split
  · exact ha t ht
  · exact hb t ht

theorem KeepsWhole.serve {body : State → State × Reply} (hbody : KeepsWhole strict body) (h : s.Whole strict) (p : PortId)
    (i : Instr) : (s.serve p i body).Whole strict :=
  State.serve_keeps (P := State.Whole strict) (fun _ _ _ ht => ht.aside) hbody h p i

theorem exec_request_keeps {i : Instr} {p : PortId} (h : i.requester = some p) :
    ∃ body, KeepsWhole strict body ∧ ∀ s, exec i s = .next (s.serve p i body) := by
  cases i with
  | file o d cls level lease tag =>
    cases h
    exact ⟨_, fun _ ht => ht.fileRequest p d cls level lease tag, fun _ => rfl⟩
  | renew o k lease => cases h; exact ⟨_, fun _ ht => ht.renew p k lease, fun _ => rfl⟩
  | release o k => cases h; exact ⟨_, fun _ ht => ht.release p k, fun _ => rfl⟩
  | readDemand o k =>
    cases h
    refine ⟨_, fun t ht => ?_, fun _ => rfl⟩
    split
    · exact ht
    · exact ht
  | nextDemand o cursor =>
    cases h
    refine ⟨_, fun t ht => ?_, fun _ => rfl⟩
    split
    · exact ht
    · exact ht
  | readDomain o d page => cases h; exact ⟨_, .ite .same (.ite .same .same), fun _ => rfl⟩
  | readRail o v page => cases h; exact ⟨_, .ite .same (.ite .same .same), fun _ => rfl⟩
  | readPoint o d page =>
    cases h
    refine ⟨_, fun t ht => ?_, fun _ => rfl⟩
    split
    · exact ht
    · split_ifs <;> exact ht
  | takeNotice o => cases h; exact ⟨_, fun _ ht => ht.takeNotice p, fun _ => rfl⟩
  | setPoint d l valid clock volt =>
    cases h
    exact ⟨_, fun _ ht => ht.setPointRequest d l valid clock volt, fun _ => rfl⟩
  | setLevels d rest safe low high => cases h; exact ⟨_, fun _ ht => ht.setLevels d rest safe low high, fun _ => rfl⟩
  | setThrottle d line level =>
    cases h
    refine ⟨_, fun t ht => ?_, fun _ => rfl⟩
    dsimp only
    split
    · exact ht
    · exact ht.followLine d _ level
  | setTimes d lock gate =>
    cases h
    exact ⟨_, .ite .same (.write fun _ ht => ht.setTimes d lock gate), fun _ => rfl⟩
  | map d v => cases h; exact ⟨_, fun _ ht => ht.mapRequest d v, fun _ => rfl⟩
  | setPark d enable window policy =>
    cases h
    exact ⟨_, .ite .same (.write (f := fun t => t.parkSet d enable window policy) fun _ ht =>
      ht.parkSet d enable window policy), fun _ => rfl⟩
  | setConsent count => cases h; exact ⟨_, .ite .same (.write fun _ ht => ht.setConsent count), fun _ => rfl⟩
  | setRail v min max fallback retention stepTime =>
    cases h
    exact ⟨_, fun _ ht => ht.setRailRequest v min max fallback retention stepTime, fun _ => rfl⟩
  | setQuota o quota => cases h; exact ⟨_, .ite .same (.ite .same (.write fun _ ht => ht.aside)), fun _ => rfl⟩
  | openPhase => cases h; exact ⟨_, .write fun _ ht => ht.aside, fun _ => rfl⟩
  | closePhase => cases h; exact ⟨_, .ite .same (.write fun _ ht => ht.aside), fun _ => rfl⟩
  | force d arg =>
    cases h
    refine ⟨_, fun t ht => ?_, fun _ => rfl⟩
    cases arg with
    | other b => exact ht
    | clear => exact ht.setForce d none
    | set level => exact ht.setForce d (some level)
  | evictHandleForm arg =>
    cases h
    refine ⟨_, fun t ht => ?_, fun _ => rfl⟩
    cases arg with
    | otherForm form => exact ht
    | number k =>
      dsimp only
      split
      · exact ht
      · exact ht.expel k _ _
  | evictPortForm o => cases h; exact ⟨_, .write fun _ ht => ht.evictPort _ _, fun _ => rfl⟩
  | clearFaultRailForm arg =>
    cases h
    refine ⟨_, fun t ht => ?_, fun _ => rfl⟩
    cases arg with
    | otherForm form => exact ht
    | number v => exact ht.clearRailRequest v
  | clearFaultDomainForm d => cases h; exact ⟨_, fun _ ht => ht.clearDomainRequest d, fun _ => rfl⟩
  | restartTables => cases h; exact ⟨_, .write fun _ ht => ht.restart, fun _ => rfl⟩
  | readPort o => cases h; exact ⟨_, .same, fun _ => rfl⟩
  | _ => cases h

/-! ### Events -/

theorem exec_event_keeps {i : Instr} (hi : i.requester = none) (h : s.Whole strict) :
    ∃ t, exec i s = .next t ∧ t.Whole strict := by
  cases i with
  | pinReset inputs => exact execPinReset_keeps inputs
  | resetHoldEnd => exact execResetHoldEnd_keeps h
  | transaction p start f => exact execTransaction_keeps h p start f
  | malformedTransaction p start bits overlap => exact execMalformedTransaction_keeps h p start bits overlap
  | presentFall x => exact execPresentFall_keeps h x
  | portLoss x => exact execPortLoss_keeps h x
  | presentRise x => exact execPresentRise_keeps h x
  | leaseExpiry k => exact execLeaseExpiry_keeps h k
  | recordReport d => exact execRecordReport_keeps h d
  | throttleEdge line rising => exact execThrottleEdge_keeps h line rising
  | strobeDriven d => exact execStrobeDriven_keeps h d
  | lockRise d => exact execLockRise_keeps h d
  | lockTimeout d => exact execLockTimeout_keeps h d
  | freezingLockTimeout d => exact execFreezingLockTimeout_keeps h d
  | quietTimerExpiry d => exact execQuietTimerExpiry_keeps h d
  | cgrantRise => exact execCgrantRise_keeps h
  | cdenyRise => exact execCdenyRise_keeps h
  | consentLineFall line => exact execConsentLineFall_keeps h line
  | consentTimeout => exact execConsentTimeout_keeps h
  | gateSettleExpiry d => exact execGateSettleExpiry_keeps h d
  | wakeGateSettleExpiry d => exact execWakeGateSettleExpiry_keeps h d
  | assuredCodeChange d => exact execAssuredCodeChange_keeps h d
  | linkSend => exact execLinkSend_keeps h
  | regulatorReply reply pg => exact execRegulatorReply_keeps h reply pg
  | replyTimeout => exact execReplyTimeout_keeps h
  | settleDeadline v pg => exact execSettleDeadline_keeps h v pg
  | pgFall v => exact execPgFall_keeps h v
  | noticeArrival p n => exact execNoticeArrival_keeps h p n
  | millisecondBoundary => exact execMillisecondBoundary_keeps h
  | _ => cases hi

/-! ### Every row, and a step -/

theorem exec_keeps (h : s.Whole strict) (i : Instr) : ∃ t, exec i s = .next t ∧ t.Whole strict := by
  cases hi : i.requester with
  | none => exact exec_event_keeps hi h
  | some p =>
    obtain ⟨body, hbody, hexec⟩ := exec_request_keeps hi
    exact ⟨_, hexec s, hbody.serve h p i⟩

theorem step_keeps (h : s.Whole strict) (hstep : step s = .next t) : t.Whole strict := by
  unfold step at hstep
  split at hstep
  · obtain rfl := Host.Outcome.next.inj hstep
    exact h.tick
  · next i rest _ =>
    have htaken : State.Whole strict { s with pending := rest } := h.aside
    obtain ⟨u, hu, hwhole⟩ := exec_keeps htaken i
    obtain rfl := Host.Outcome.next.inj (hu.symm.trans hstep)
    exact hwhole

end Sys2Proof.Machine

/-! ### The statements -/

namespace Sys2Proof.Steps

open Sys2Proof.Machine

/-- Settles O58: the relations, taken apart by domain, rail and channel, are kept by every row of the table. -/
theorem stepKeepsTheCoveringRelation : Obligations.StepKeepsTheCoveringRelation := by
  intro s t hs hstep
  have hwhole : s.Whole False := hs.whole False.elim
  exact (step_keeps hwhole hstep).sound.1

/-- Settles O59: the relations of the table alone by what a step does to the table, the statuses together with the
relations between the blocks. -/
theorem stepKeepsTheDemandTable : Obligations.StepKeepsTheDemandTable := by
  intro s t hstep
  have htable := step_tableStep hstep
  refine ⟨htable.keys, htable.setup, htable.quotas, htable.leases, htable.generations, fun hs hstatuses => ?_⟩
  have hwhole : s.Whole True := hs.whole fun _ => hstatuses
  exact (step_keeps hwhole hstep).sound.2 trivial

end Sys2Proof.Steps
end
